-- ==== Sys2Proof/Word.lean ====
section
/-! DEFINITION. The word types of the randomjs PRNG engine (spec/00_scope.md R5, R7; spec/30_encoding.md R80, R90).
Each is what the spec treats as bits: state words and raw outputs, character codes, command words and response beats. -/

namespace Sys2Proof

/-- A word: an unsigned integer in [0, 2^32) (R7, parameter `W` = 32 of R5). -/
abbrev Word := BitVec 32

/-- One character code of a textual seed (parameter `CHAR_BITS` = 16 of R5). -/
abbrev CharCode := BitVec 16

/-- One word of the command port (parameter `CMD_BITS` = 40 of R5; fields in R80). -/
abbrev CmdWord := BitVec 40

/-- One beat of the response port (R90). -/
abbrev BeatWord := BitVec 72

/-- The 64-bit `DATA` field of a beat (R90, R91). -/
abbrev Data64 := BitVec 64

end Sys2Proof
end

