-- ==== Sys2Proof/Config.lean ====
section
/-! DEFINITION. The implementation parameters of spec/00_scope.md R5, and the two things no rule fixes:
the multiplier `DX_B` of the DX1597 core (R5 `OPEN`, R237) and the words the entropy port carries (R104). -/

namespace Sys2Proof.Config

/-- `NCORES`: how many cores can be selected (R5, R6). -/
abbrev ncores : Nat := 16

/-- `M31` = 2^31 - 1, the modulus of the prime-modulus cores (R5). -/
abbrev m31 : Nat := 2147483647

/-- `M32` = 2^32, the modulus of the word cores (R5). -/
abbrev m32 : Nat := 4294967296

/-- `RECALC_FREQ`: the ambient re-seed cadence, in generated values (R5, R109). -/
def recalcFreq : Nat := 65536

/-- `MAX_SEED_LEN`: the longest textual seed, in characters (R5, R28). -/
abbrev maxSeedLen : Nat := 256

/-- `DEFAULT_HAS_INT`: whether the DEFAULT core gives raw integers (R5, R168). -/
def defaultHasInt : Bool := false

/-- `PHILOX_ROUNDS`: the rounds of one Philox block (R5, R283). -/
def philoxRounds : Nat := 10

/-- `DX_L2`: the shorter middle lag of DX1597 (R5, R234). -/
def dxL2 : Nat := 533

/-- `DX_L3`: the longer middle lag of DX1597 (R5, R234). -/
def dxL3 : Nat := 1065

/-- `MODMUL_RADIX`: the radix of the digit decomposition (R5, R143). -/
def modmulRadix : Nat := 10

/-- `MODMUL_DIGITS`: the digits of the multiplier operand (R5, R142). -/
def modmulDigits : Nat := 10

/-- The free choice behind `DX_B`. Nothing in Lean can compute it (log entry 3). -/
opaque dxRaw : BitVec 32

/-- `DX_B`, with 0 < `DX_B` < `M31` and otherwise free (R5 `OPEN`, R237): every value of that range is the value of
this expression for some `dxRaw`. -/
def dxB : Nat := dxRaw.toNat % (m31 - 1) + 1

/-- The word the entropy port `ENT` carries at its `n`-th sampling since the model began, where no input supplies one
(R104: "The rules put no law on it: any word may come"). No body: a free value (log entry 2). -/
opaque entropy : Nat → BitVec 32

end Sys2Proof.Config
end

