-- ==== Sys2Proof/Syntax.lean ====
section
/-! DEFINITION. The commands of the block: one constructor for each mnemonic of spec/opcode_table.json
(spec/30_encoding.md R83). SEED_OTHER's three rows are one command (R86), so they are one constructor. -/

namespace Sys2Proof

/-- The commands (R83). Operands are the fields of R81, assembled as R82 says. -/
inductive Instr where
  /-- `SEED_NONE` (R112): seed with the value absent. -/
  | seedNone
  /-- `SEED_INT imm` (R113): seed with a 32-bit integer. -/
  | seedInt (imm : BitVec 32)
  /-- `SEED_STR` (R114): the header and its `L` extension words, one command; `cs` are the `L` character codes. -/
  | seedStr (cs : List CharCode)
  /-- `SEED_OTHER t` (R115): a seed of some other type. `arg` is the ignored `ARG` field, which the error beat repeats
  (R301). -/
  | seedOther (t : BitVec 4) (arg : BitVec 32)
  /-- `NEXT` (R116): one normalised value. -/
  | next
  /-- `NEXT_INT` (R117): one raw value. -/
  | nextInt
  /-- `RANDOM n` (R119): normalised values, `n` in two's complement. -/
  | random (imm : BitVec 32)
  /-- `RANDOM_INT n` (R120): raw values, `n` in two's complement. -/
  | randomInt (imm : BitVec 32)
  /-- `SELECT gid` (R121): switch to another core. -/
  | select (gid : BitVec 8)
  /-- `RESTORE` (R122): copy the seed-time snapshot back. -/
  | restore
  /-- `CHAR ch` (R85): the extension word, where it stands as a header (R84 (b)). -/
  | char (ch : CharCode)
  deriving DecidableEq, Repr

end Sys2Proof
end

