-- ==== Sys2Proof/WellFormed.lean ====
section
/-! DEFINITION. Which terms of `Instr` are commands: the operand ranges of spec/30_encoding.md R82, R84. All other
ranges are carried by the widths of the operands. -/

namespace Sys2Proof

/-- A text has at most `MAX_SEED_LEN` characters (R84 (d)). -/
def textFits (cs : List CharCode) : Bool := decide (cs.length ≤ Config.maxSeedLen)

/-- The type tag of SEED_OTHER is 3..15: 0, 1 and 2 are the other three seed commands (R82, R83). -/
def tagIsOther (t : BitVec 4) : Bool := decide (3 ≤ t.toNat)

/-- `i` is a command the encoding can express (R81, R82, R84). -/
def Instr.wf : Instr → Bool
  | .seedNone => true
  | .seedInt _ => true
  | .seedStr cs => textFits cs
  | .seedOther t _ => tagIsOther t
  | .next => true
  | .nextInt => true
  | .random _ => true
  | .randomInt _ => true
  | .select _ => true
  | .restore => true
  | .char _ => true

end Sys2Proof
end

