-- ==== Sys2Proof/Decode.lean ====
section
/-! DEFINITION. Decoding the words of the command port (spec/30_encoding.md R80 to R86), the encoder, and the opcode
table as match/mask rows (spec/opcode_table.json). Words are numbers: the block has no byte order (R63). -/

namespace Sys2Proof

/-- Why a command is illegal (R84). CHAR where a header is expected (R84 (b)) is not here: it decodes to
`Instr.char`, whose meaning raises the same error. -/
inductive Illegal where
  /-- R84 (a): `OP` is not in the table of R83. -/
  | unusedOpcode
  /-- R84 (c): a "must be 0" field is not 0. -/
  | reservedField
  /-- R84 (d): a SEED_STR header with `L > MAX_SEED_LEN`. -/
  | textTooLong
  /-- R84, last paragraph: an extension word that is no well-formed CHAR word. -/
  | malformedChar
  deriving DecidableEq, Repr

/-- What a header word alone says (R85: "The decoder tells its length from the header alone"). -/
inductive Header where
  /-- A command of one word. -/
  | single (i : Instr)
  /-- A legal SEED_STR header: `len` extension words follow. -/
  | text (len : Nat)
  /-- An illegal header word. -/
  | bad (why : Illegal)
  deriving DecidableEq, Repr

/-- What the decoder finds at the head of the command stream. -/
inductive Decoded where
  /-- A whole command and the words after it. -/
  | instr (i : Instr) (rest : List CmdWord)
  /-- An illegal command: why, its header word, and the words after those it consumes (R84). -/
  | illegal (why : Illegal) (hdr : CmdWord) (rest : List CmdWord)
  /-- The command is not complete: the block waits for the next word (R335). -/
  | waiting
  deriving DecidableEq, Repr

/-- `OP`, bits 39:32 (R80). -/
def opField (w : CmdWord) : BitVec 8 := w.extractLsb' 32 8

/-- `ARG`, bits 31:0 (R80). -/
def argField (w : CmdWord) : BitVec 32 := w.extractLsb' 0 32

/-- `ARG[31:16]` (R81). -/
def argHigh (w : CmdWord) : BitVec 16 := w.extractLsb' 16 16

/-- `ARG[15:0]`: `L` of SEED_STR, `ch` of CHAR (R81). -/
def argLow (w : CmdWord) : BitVec 16 := w.extractLsb' 0 16

/-- Format N: all of `ARG` must be 0 (R81). -/
def formatN (w : CmdWord) (i : Instr) : Header :=
  if argField w = 0 then .single i else .bad .reservedField

/-- Format G: `gid` in `ARG[7:0]`, the rest must be 0 (R81). -/
def formatG (w : CmdWord) : Header :=
  if w.extractLsb' 8 24 = (0 : BitVec 24) then .single (.select (w.extractLsb' 0 8)) else .bad .reservedField

/-- Format S: `L` in `ARG[15:0]`, at most `MAX_SEED_LEN`, the rest must be 0 (R81, R84 (d)). -/
def formatS (w : CmdWord) : Header :=
  if argHigh w = 0 then
    if (argLow w).toNat ≤ Config.maxSeedLen then .text (argLow w).toNat else .bad .textTooLong
  else .bad .reservedField

/-- Format X as a header: a well-formed CHAR word (R81). -/
def formatX (w : CmdWord) : Header :=
  if argHigh w = 0 then .single (.char (argLow w)) else .bad .reservedField

/-- Format T: `t` in `OP[3:0]`, `ARG` ignored (R81, R86). -/
def formatT (w : CmdWord) : Header := .single (.seedOther (w.extractLsb' 32 4) (argField w))

/-- The opcode map of R83: `OP` first, then `ARG` against the format of that opcode (R80). -/
def decodeHeader (w : CmdWord) : Header :=
  let op := (opField w).toNat
  if op = 0x10 then formatN w .seedNone
  else if op = 0x11 then .single (.seedInt (argField w))
  else if op = 0x12 then formatS w
  else if 0x13 ≤ op ∧ op ≤ 0x1F then formatT w
  else if op = 0x20 then formatN w .next
  else if op = 0x21 then formatN w .nextInt
  else if op = 0x22 then .single (.random (argField w))
  else if op = 0x23 then .single (.randomInt (argField w))
  else if op = 0x30 then formatG w
  else if op = 0x31 then formatN w .restore
  else if op = 0x80 then formatX w
  else .bad .unusedOpcode

/-- The character an extension word carries, if it is a well-formed CHAR word (R84: `OP = 0x80` and
`ARG[31:16] = 0`). -/
def charOf (w : CmdWord) : Option CharCode :=
  if (opField w).toNat = 0x80 ∧ argHigh w = 0 then some (argLow w) else none

/-- The characters of a run of extension words; none if one of them is malformed (R84). -/
def charsOf : List CmdWord → Option (List CharCode)
  | [] => some []
  | w :: ws =>
    match charOf w, charsOf ws with
    | some c, some cs => some (c :: cs)
    | _, _ => none

/-- A legal SEED_STR header with the words after it: exactly `len` of them are its extension words, whatever they
hold (R85); it waits until they have all arrived (R335) and is illegal as a whole if one is malformed (R84). -/
def decodeText (hdr : CmdWord) (len : Nat) (rest : List CmdWord) : Decoded :=
  if rest.length < len then .waiting
  else
    match charsOf (rest.take len) with
    | some cs => .instr (.seedStr cs) (rest.drop len)
    | none => .illegal .malformedChar hdr (rest.drop len)

/-- The decoder, total on every word stream (R80 to R86, R100 phase 1). -/
def decode : List CmdWord → Decoded
  | [] => .waiting
  | hdr :: rest =>
    match decodeHeader hdr with
    | .single i => .instr i rest
    | .text len => decodeText hdr len rest
    | .bad why => .illegal why hdr rest

/-- A command word from its two fields (R80). -/
def cmdWord (op : BitVec 8) (arg : BitVec 32) : CmdWord := op ++ arg

/-- The header word of a command (R81 to R83). -/
def headerWord : Instr → CmdWord
  | .seedNone => cmdWord 0x10 0
  | .seedInt imm => cmdWord 0x11 imm
  | .seedStr cs => cmdWord 0x12 (BitVec.ofNat 32 cs.length)
  | .seedOther t arg => cmdWord ((1 : BitVec 4) ++ t) arg
  | .next => cmdWord 0x20 0
  | .nextInt => cmdWord 0x21 0
  | .random imm => cmdWord 0x22 imm
  | .randomInt imm => cmdWord 0x23 imm
  | .select gid => cmdWord 0x30 (gid.setWidth 32)
  | .restore => cmdWord 0x31 0
  | .char ch => cmdWord 0x80 (ch.setWidth 32)

/-- The CHAR word of one character of a text (R85). -/
def charWord (ch : CharCode) : CmdWord := cmdWord 0x80 (ch.setWidth 32)

/-- The extension words of a command: one CHAR word for each character of a SEED_STR, none otherwise (R80, R85). -/
def extensionWords : Instr → List CmdWord
  | .seedNone => []
  | .seedInt _ => []
  | .seedStr cs => cs.map charWord
  | .seedOther _ _ => []
  | .next => []
  | .nextInt => []
  | .random _ => []
  | .randomInt _ => []
  | .select _ => []
  | .restore => []
  | .char _ => []

/-- The words of a command, its header first (R80). -/
def encode (i : Instr) : List CmdWord := headerWord i :: extensionWords i

/-- One row of spec/opcode_table.json. -/
structure OpcodeRow where
  mnemonic : String
  value : CmdWord
  mask : CmdWord
  deriving DecidableEq, Repr

/-- The rows of spec/opcode_table.json, in its order. -/
def opcodeTable : List OpcodeRow :=
  [ ⟨"SEED_NONE", 0x1000000000, 0xFFFFFFFFFF⟩,
    ⟨"SEED_INT", 0x1100000000, 0xFF00000000⟩,
    ⟨"SEED_STR", 0x1200000000, 0xFFFFFF0000⟩,
    ⟨"SEED_OTHER", 0x1300000000, 0xFF00000000⟩,
    ⟨"SEED_OTHER", 0x1400000000, 0xFC00000000⟩,
    ⟨"SEED_OTHER", 0x1800000000, 0xF800000000⟩,
    ⟨"NEXT", 0x2000000000, 0xFFFFFFFFFF⟩,
    ⟨"NEXT_INT", 0x2100000000, 0xFFFFFFFFFF⟩,
    ⟨"RANDOM", 0x2200000000, 0xFF00000000⟩,
    ⟨"RANDOM_INT", 0x2300000000, 0xFF00000000⟩,
    ⟨"SELECT", 0x3000000000, 0xFFFFFFFF00⟩,
    ⟨"RESTORE", 0x3100000000, 0xFFFFFFFFFF⟩,
    ⟨"CHAR", 0x8000000000, 0xFFFFFF0000⟩ ]

/-- The word `w` is one of the row's words. -/
def rowMatches (r : OpcodeRow) (w : CmdWord) : Bool := decide (w &&& r.mask = r.value)

/-- The mnemonic of a command (R83). -/
def mnemonicOf : Instr → String
  | .seedNone => "SEED_NONE"
  | .seedInt _ => "SEED_INT"
  | .seedStr _ => "SEED_STR"
  | .seedOther _ _ => "SEED_OTHER"
  | .next => "NEXT"
  | .nextInt => "NEXT_INT"
  | .random _ => "RANDOM"
  | .randomInt _ => "RANDOM_INT"
  | .select _ => "SELECT"
  | .restore => "RESTORE"
  | .char _ => "CHAR"

/-- How many extension words the header asks for (R85). -/
def extensionCount (hdr : CmdWord) : Nat :=
  match decodeHeader hdr with
  | .single _ => 0
  | .text len => len
  | .bad _ => 0

/-- Word `k` of an instruction given as one number, bit 0 being the least significant bit of the first word and each
later word counting on from it; bits from `nbits` up are 0. -/
def wordOfBits (nbits w k : Nat) : CmdWord := BitVec.ofNat 40 ((w % 2 ^ nbits) >>> (40 * k))

/-- The words of the instruction whose bits are `w`: the header, and as many more as the header asks for. -/
def wordsOfBits (nbits w : Nat) : List CmdWord :=
  (List.range (extensionCount (wordOfBits nbits w 0) + 1)).map (wordOfBits nbits w)

/-- The command a decoding answers, if it is one. -/
def decodedInstr : Decoded → Option Instr
  | .instr i _ => some i
  | .illegal _ _ _ => none
  | .waiting => none

/-- The instruction the decoder reads from the instruction whose bits are `w`, numbered as spec/opcode_table.json
numbers them. -/
def decodeTableWord (nbits w : Nat) : Option Instr := decodedInstr (decode (wordsOfBits nbits w))

end Sys2Proof
end

