-- ==== Sys2Proof/Machine/State.lean ====
section
/-! DEFINITION. The architectural state of the block (spec/10_state.md R20 to R33), its value after reset (R37, R330),
and the reasons a step can stop. Plain data throughout. -/

namespace Sys2Proof.Machine

/-- The sixteen cores, in the order of their `GID` (spec/00_scope.md R6). -/
inductive CoreId where
  | dflt | parkMiller | xorshift32 | xorwow | kiss | taus113 | coveyou | knuthran2
  | r250 | gfsr4 | tt800 | mt19937 | dx1597 | mrg5 | swb2712 | philox
  deriving DecidableEq, Repr

/-- The registers of one XS128 generator: DEFAULT and BOOT (R21, R32, R161). `w` is the newest word. -/
structure Xs128 where
  x : Word
  y : Word
  z : Word
  w : Word
  deriving DecidableEq, Repr

/-- PARKMILLER (R21, R176): the residue, 31 bits. -/
structure ParkMiller where
  x : BitVec 31
  deriving DecidableEq, Repr

/-- XORSHIFT32 (R21, R180). -/
structure Xorshift32 where
  x : Word
  deriving DecidableEq, Repr

/-- XORWOW (R21, R184): the xorshift part, `v` newest, and the Weyl counter `d`. -/
structure Xorwow where
  x : Word
  y : Word
  z : Word
  w : Word
  v : Word
  d : Word
  deriving DecidableEq, Repr

/-- KISS (R21, R188): Weyl counter, xorshift word, the 31-bit add-with-carry pair and its carry (R26). -/
structure Kiss where
  x : Word
  y : Word
  z : BitVec 31
  w : BitVec 31
  c : Bool
  deriving DecidableEq, Repr

/-- TAUS113 (R21, R192). -/
structure Taus113 where
  z1 : Word
  z2 : Word
  z3 : Word
  z4 : Word
  deriving DecidableEq, Repr

/-- COVEYOU (R21, R198). -/
structure Coveyou where
  x : Word
  deriving DecidableEq, Repr

/-- KNUTHRAN2 (R21, R202): `x1` newest, `x0` the one before, 31 bits each. -/
structure Knuthran2 where
  x0 : BitVec 31
  x1 : BitVec 31
  deriving DecidableEq, Repr

/-- The storage of a buffer core (R23, R25): a circular buffer of `K` words and the read pointer, the index of the
oldest word, in [0, K). -/
structure Buffer (K : Nat) where
  buf : Vector Word K
  p : Fin K
  deriving DecidableEq, Repr

/-- SWB2712 (R23): the buffer and the borrow bit. -/
structure Swb2712 where
  b : Buffer 27
  c : Bool
  deriving DecidableEq, Repr

/-- PHILOX (R33, R280): key, counter (`ctr[0]` least significant), output buffer, and how many words of it have been
handed out, 0..4. -/
structure Philox where
  key : Vector Word 2
  ctr : Vector Word 4
  out : Vector Word 4
  idx : Fin 5
  deriving DecidableEq, Repr

/-- One generator state for each core: `S` and `SNAP` of R20 (c), R30. -/
structure Gens where
  dflt : Xs128
  parkMiller : ParkMiller
  xorshift32 : Xorshift32
  xorwow : Xorwow
  kiss : Kiss
  taus113 : Taus113
  coveyou : Coveyou
  knuthran2 : Knuthran2
  r250 : Buffer 250
  gfsr4 : Buffer 9689
  tt800 : Buffer 25
  mt19937 : Buffer 624
  dx1597 : Buffer 1597
  mrg5 : Buffer 5
  swb2712 : Swb2712
  philox : Philox
  deriving DecidableEq, Repr

/-- `LS_KIND` (R28): the kind of the last seed value supplied. The value 3 of the 2-bit field never occurs. -/
inductive SeedKind where
  | none | int | str
  deriving DecidableEq, Repr

/-- A seed value, as `seed_apply` takes it (spec/40_commands.md R105). -/
inductive SeedVal where
  | none
  | int (s : Word)
  | str (cs : List CharCode)
  deriving DecidableEq, Repr

/-- The state of the block. The fields down to `boot` are the registers of R20; the last four are the model's own and
stand for the three ports, which the spec makes inputs and outputs of the step relation (R38; DESIGN CHOICE, log
entries 2, 4 and 6). -/
structure State where
  /-- `CUR`, 4 bits (R27). -/
  cur : CoreId
  /-- `LS_KIND`, 2 bits (R28). -/
  lsKind : SeedKind
  /-- `LS_INT`, 32 bits (R28). -/
  lsInt : Word
  /-- `LS_LEN`, 9 bits, 0..256 (R28). -/
  lsLen : Fin (Config.maxSeedLen + 1)
  /-- `LS_STR`, 256 codes of 16 bits (R28, R60). -/
  lsStr : Vector CharCode Config.maxSeedLen
  /-- `NOSEED[g]`, one bit per core (R26). -/
  noseed : Vector Bool Config.ncores
  /-- `RECALC[g]`, 17 bits per core (R29). -/
  recalc : Vector (BitVec 17) Config.ncores
  /-- `SNAPV[g]`, one bit per core (R26, R30). -/
  snapv : Vector Bool Config.ncores
  /-- `INST[g]`, one bit per core (R31). -/
  inst : Vector Bool Config.ncores
  /-- `S[g]` of every core (R20 (c), R21, R23, R33). -/
  gen : Gens
  /-- `SNAP[g]` of every core (R30). -/
  snap : Gens
  /-- `BOOT` (R32). -/
  boot : Xs128
  /-- MODEL: the words waiting at the command port, in the order of presentation (R67, R338). -/
  cmd : List CmdWord
  /-- MODEL: the samples the entropy port will carry next, as far as the environment has fixed them (R104). -/
  ent : List Word
  /-- MODEL: how many samples have been taken; past `ent`, sample `n` is the free value `Config.entropy n` (R104). -/
  entCount : Nat
  /-- MODEL: the beats sent on the response port, oldest first (R90, R338). -/
  resp : List BeatWord
  deriving DecidableEq, Repr

/-- Reasons to stop with a fault: none. "No other error exists" (spec/60_exceptions.md R306), "Nothing ends the
block's operation" (spec/70_reset_and_hazards.md R339): the three errors of the block are answers to the host, which
the block goes on from (R309, R311), and every access is in range by its type (R62). That the type is empty is safe:
no claim can be lost to a fault (DEDUCED, log entry 13). -/
inductive Fault where
  deriving DecidableEq, Repr

/-- Reasons to refuse an instruction. -/
inductive Refusal where
  /-- Raised by `exec` for an instruction that has no meaning yet, and by nothing else; no arm of this model raises it.
  Safe: nothing is claimed of a refused instruction. -/
  | notModelled (mnemonic : String)
  deriving DecidableEq, Repr

/-- Status codes of a beat (R90, R300). -/
inductive Status where
  | ok | invalidSeedType | unsupportedOperation | illegalCommand
  deriving DecidableEq, Repr

/-- The kind of value a beat carries (R90). -/
inductive Kind where
  | none | int | float
  deriving DecidableEq, Repr

/-- One response beat by its fields (R90). -/
structure Beat where
  status : Status
  kind : Kind
  seq : Bool
  last : Bool
  data : Data64
  deriving DecidableEq, Repr

/-- What one command answers. -/
abbrev Result := Host.Outcome State Fault Refusal

/-- The value the model gives to a buffer nothing has seeded: zeros (DESIGN CHOICE, log entry 1). -/
def Buffer.zero (K : Nat) (h : 0 < K) : Buffer K := ⟨Vector.replicate K 0, ⟨0, h⟩⟩

/-- The value the model gives to a generator nothing has seeded: zeros (DESIGN CHOICE, log entry 1; the spec gives
none, R22, R37). -/
def Gens.zero : Gens where
  dflt := ⟨0, 0, 0, 0⟩
  parkMiller := ⟨0⟩
  xorshift32 := ⟨0⟩
  xorwow := ⟨0, 0, 0, 0, 0, 0⟩
  kiss := ⟨0, 0, 0, 0, false⟩
  taus113 := ⟨0, 0, 0, 0⟩
  coveyou := ⟨0⟩
  knuthran2 := ⟨0, 0⟩
  r250 := Buffer.zero 250 (by decide)
  gfsr4 := Buffer.zero 9689 (by decide)
  tt800 := Buffer.zero 25 (by decide)
  mt19937 := Buffer.zero 624 (by decide)
  dx1597 := Buffer.zero 1597 (by decide)
  mrg5 := Buffer.zero 5 (by decide)
  swb2712 := ⟨Buffer.zero 27 (by decide), false⟩
  philox := ⟨Vector.replicate 2 0, Vector.replicate 4 0, Vector.replicate 4 0, 0⟩

/-- The reset values of R37, `E0` being the entropy sample taken while reset is released (R330). Everything R37 gives
no value holds zero (DESIGN CHOICE, log entry 1). The ports are idle: `ent` and `n` say what the entropy port carries
from then on. -/
def State.resetWith (e0 : Word) (ent : List Word) (n : Nat) : State where
  cur := .dflt
  lsKind := .none
  lsInt := 0
  lsLen := 0
  lsStr := Vector.replicate Config.maxSeedLen 0
  noseed := (Vector.replicate Config.ncores false).set 0 true
  recalc := Vector.replicate Config.ncores 0
  snapv := Vector.replicate Config.ncores false
  inst := (Vector.replicate Config.ncores false).set 0 true
  gen := { Gens.zero with dflt := ⟨e0, 362436069, 521288629, 88675123⟩ }
  snap := Gens.zero
  boot := ⟨0, 0, 0, 0⟩
  cmd := []
  ent := ent
  entCount := n
  resp := []

/-- The machine right after reset (R37, R330). `E0` is the free value of the port's first sampling (R104). -/
def State.reset : State := State.resetWith (Config.entropy 0) [] 1

end Sys2Proof.Machine
end

