-- ==== Sys2Proof/Machine/Flags.lean ====
section
/-! DEFINITION. The flag computations (spec/10_state.md R26): the mode flags a seeding writes, the carry of KISS, the
borrow of SWB2712, and the `SEQ` and `LAST` bits of a response (spec/30_encoding.md R90). -/

namespace Sys2Proof.Machine

/-- `NOSEED[g]` after `seed_apply`: 1 exactly for an absent seed (spec/40_commands.md R105). -/
def noseedAfter : SeedVal → Bool
  | .none => true
  | .int _ => false
  | .str _ => false

/-- `SNAPV[g]` after `seed_apply`: 1 exactly for a seed that was given (R105). -/
def snapvAfter : SeedVal → Bool
  | .none => false
  | .int _ => true
  | .str _ => true

/-- `LS_KIND` of a seed value (R28). -/
def seedKind : SeedVal → SeedKind
  | .none => .none
  | .int _ => .int
  | .str _ => .str

/-- `z + w + c` of the KISS step, an integer of at most 32 bits (spec/43_scalar_cores.md R189, R190). -/
def kissSum (z w : BitVec 31) (c : Bool) : Nat := z.toNat + w.toNat + c.toNat

/-- The new KISS carry, `t[31]` (R189). -/
def kissCarry (t : Nat) : Bool := t.testBit 31

/-- The borrow out of SWB2712's subtraction `a - b - c` (spec/44_lagged_cores.md R230). -/
def swbBorrow (a b : Word) (c : Bool) : Bool := decide (a.toNat < b.toNat + c.toNat)

/-- The difference of SWB2712's subtraction, with the borrow made explicit (R230). -/
def swbDifference (a b : Word) (c : Bool) : Word :=
  if b.toNat + c.toNat ≤ a.toNat then BitVec.ofNat 32 (a.toNat - (b.toNat + c.toNat))
  else BitVec.ofNat 32 (a.toNat + 2 ^ 32 - (b.toNat + c.toNat))

/-- `seq(n)`: whether RANDOM and RANDOM_INT answer a sequence (R118). -/
def seqFlag (n : Int) : Bool := decide (2 ≤ n)

end Sys2Proof.Machine
end

