-- ==== Sys2Proof/Machine/Operands.lean ====
section
/-! DEFINITION. Operand assembly (spec/30_encoding.md R82; spec/40_commands.md R118) and the constants of each core
that the table of spec/00_scope.md R6 gives: `GID`, class, divisor `M[g]`. -/

namespace Sys2Proof.Machine

/-- The `GID` of a core (R6), as an index of the per-core registers. -/
def CoreId.idx : CoreId → Fin Config.ncores
  | .dflt => 0
  | .parkMiller => 1
  | .xorshift32 => 2
  | .xorwow => 3
  | .kiss => 4
  | .taus113 => 5
  | .coveyou => 6
  | .knuthran2 => 7
  | .r250 => 8
  | .gfsr4 => 9
  | .tt800 => 10
  | .mt19937 => 11
  | .dx1597 => 12
  | .mrg5 => 13
  | .swb2712 => 14
  | .philox => 15

/-- The cores in the order of their `GID` (R6). -/
def allCores : List CoreId :=
  [.dflt, .parkMiller, .xorshift32, .xorwow, .kiss, .taus113, .coveyou, .knuthran2,
   .r250, .gfsr4, .tt800, .mt19937, .dx1597, .mrg5, .swb2712, .philox]

/-- The core that `gid` names: 0..15 name a core, 16..255 name none (R82). -/
def coreOfGid (gid : BitVec 8) : Option CoreId := allCores[gid.toNat]?

/-- `M[g]`: the modulus of core `g`'s time seed and the divisor of its normalised output (R6, R104, R110). -/
def modulus : CoreId → Nat
  | .dflt => Config.m32
  | .parkMiller => Config.m31
  | .xorshift32 => Config.m32
  | .xorwow => Config.m32
  | .kiss => Config.m32
  | .taus113 => Config.m32
  | .coveyou => Config.m32
  | .knuthran2 => Config.m31
  | .r250 => Config.m32
  | .gfsr4 => Config.m32
  | .tt800 => Config.m32
  | .mt19937 => Config.m32
  | .dx1597 => Config.m31
  | .mrg5 => Config.m31
  | .swb2712 => Config.m32
  | .philox => Config.m32

/-- The seed of SEED_INT: `s = zext_32(ARG)`, a word (R82, R113). -/
def seedOperand (imm : BitVec 32) : Word := imm

/-- `n = sext_32(ARG)` of RANDOM and RANDOM_INT, the only signed quantity of the spec (R7, R82, R118). -/
def countOperand (imm : BitVec 32) : Int := imm.toInt

/-- `count(n)`: how many values are asked for (R118). -/
def valueCount (n : Int) : Nat := if n ≤ 1 then 1 else n.toNat

/-- `zext` of a character code to a word, as the folds use it (R102, R163). -/
def charWordValue (c : CharCode) : Word := c.setWidth 32

end Sys2Proof.Machine
end

