-- ==== Sys2Proof/Machine/Ops.lean ====
section
/-! DEFINITION. The operations every meaning is written over: the per-core registers, the buffers (spec/20_memory.md),
the last seed, the three ports, answering (spec/30_encoding.md R90, R91) and raising an error
(spec/60_exceptions.md R300 to R309). -/

namespace Sys2Proof.Machine

-- The per-core registers (spec/10_state.md R26, R29, R31).

/-- `NOSEED[g]` (R26). -/
def State.noseedOf (s : State) (g : CoreId) : Bool := s.noseed[g.idx]

/-- `RECALC[g]` (R29). -/
def State.recalcOf (s : State) (g : CoreId) : BitVec 17 := s.recalc[g.idx]

/-- `SNAPV[g]` (R26). -/
def State.snapvOf (s : State) (g : CoreId) : Bool := s.snapv[g.idx]

/-- `INST[g]` (R31). -/
def State.instOf (s : State) (g : CoreId) : Bool := s.inst[g.idx]

/-- `NOSEED[g] <- v`. -/
def State.setNoseed (s : State) (g : CoreId) (v : Bool) : State := { s with noseed := s.noseed.set g.idx v }

/-- `RECALC[g] <- v`. -/
def State.setRecalc (s : State) (g : CoreId) (v : BitVec 17) : State := { s with recalc := s.recalc.set g.idx v }

/-- `SNAPV[g] <- v`. -/
def State.setSnapv (s : State) (g : CoreId) (v : Bool) : State := { s with snapv := s.snapv.set g.idx v }

/-- `INST[g] <- v`. -/
def State.setInst (s : State) (g : CoreId) (v : Bool) : State := { s with inst := s.inst.set g.idx v }

/-- `dst` with the generator state of core `g` taken from `src`: the copy a snapshot and a restore make
(R30, spec/40_commands.md R105, R122). -/
def copyCore (g : CoreId) (src dst : Gens) : Gens :=
  match g with
  | .dflt => { dst with dflt := src.dflt }
  | .parkMiller => { dst with parkMiller := src.parkMiller }
  | .xorshift32 => { dst with xorshift32 := src.xorshift32 }
  | .xorwow => { dst with xorwow := src.xorwow }
  | .kiss => { dst with kiss := src.kiss }
  | .taus113 => { dst with taus113 := src.taus113 }
  | .coveyou => { dst with coveyou := src.coveyou }
  | .knuthran2 => { dst with knuthran2 := src.knuthran2 }
  | .r250 => { dst with r250 := src.r250 }
  | .gfsr4 => { dst with gfsr4 := src.gfsr4 }
  | .tt800 => { dst with tt800 := src.tt800 }
  | .mt19937 => { dst with mt19937 := src.mt19937 }
  | .dx1597 => { dst with dx1597 := src.dx1597 }
  | .mrg5 => { dst with mrg5 := src.mrg5 }
  | .swb2712 => { dst with swb2712 := src.swb2712 }
  | .philox => { dst with philox := src.philox }

-- Element-indexed storage (spec/00_scope.md R10, spec/20_memory.md R60 to R62).

/-- `MemRead(B, i)`: one element, always in range (R10, R62). -/
def memRead {α : Type} {n : Nat} (b : Vector α n) (i : Fin n) : α := b[i]

/-- `MemWrite(B, i, v)`: one element, always in range (R10, R62). -/
def memWrite {α : Type} {n : Nat} (b : Vector α n) (i : Fin n) (v : α) : Vector α n := b.set i v

/-- The index `i mod K` of a circular buffer (R61, R62). -/
def wrapIndex {K : Nat} (p : Fin K) (i : Nat) : Fin K := ⟨i % K, Nat.mod_lt i (Nat.lt_of_le_of_lt (Nat.zero_le p.val) p.isLt)⟩

/-- `lag(g, j)`: the word produced `j` steps ago (R61). -/
def lag {K : Nat} (b : Buffer K) (j : Nat) : Word := memRead b.buf (wrapIndex b.p (b.p.val + K - j))

/-- `push(g, v)`: overwrite the oldest word and advance the read pointer (R25, R61). -/
def push {K : Nat} (b : Buffer K) (v : Word) : Buffer K :=
  { buf := memWrite b.buf b.p v, p := wrapIndex b.p (b.p.val + 1) }

/-- Writes `xs` over the first elements of `old`, which keeps its length: `MemWrite(B, i, xs[i])` for each `i`. -/
def overlay {α : Type} : List α → List α → List α
  | [], old => old
  | _ :: _, [] => []
  | x :: xs, _ :: old => x :: overlay xs old

theorem overlay_length {α : Type} (xs old : List α) : (overlay xs old).length = old.length := by
  fun_induction overlay xs old <;> simp_all

/-- `for i = 0 .. L-1: MemWrite(LS_STR, i, cs[i])` (spec/40_commands.md R114, R72). -/
def writeText (cs : List CharCode) (old : Vector CharCode Config.maxSeedLen) : Vector CharCode Config.maxSeedLen :=
  ⟨⟨overlay cs old.toList⟩, by simp [overlay_length]⟩

/-- `LS_STR[0 .. LS_LEN-1]`: the text of the last seed (R28, R121). -/
def State.lastText (s : State) : List CharCode := s.lsStr.toList.take s.lsLen.val

/-- `LASTSEED`: the last seed value supplied, as `seed_apply` takes it (R28, R121). -/
def State.lastSeed (s : State) : SeedVal :=
  match s.lsKind with
  | .none => .none
  | .int => .int s.lsInt
  | .str => .str s.lastText

-- The entropy port (spec/40_commands.md R104, spec/60_exceptions.md R322).

/-- The word the port carries now: the next sample the environment has fixed, else a free value (R104). -/
def State.entropyWord (s : State) : Word := s.ent.headD (Config.entropy s.entCount)

/-- The state after one sample has been taken (R64: each call consumes one sample). -/
def State.takeSample (s : State) : State := { s with ent := s.ent.tail, entCount := s.entCount + 1 }

/-- `timeseed(g)` when the port carries `e`: `e mod M[g]` (R104). -/
def timeSeed (g : CoreId) (e : Word) : Word := BitVec.ofNat 32 (e.toNat % modulus g)

-- The response port (spec/30_encoding.md R90, R91).

/-- The 4-bit code of a status (R90, R300). -/
def statusCode : Status → BitVec 4
  | .ok => 0
  | .invalidSeedType => 1
  | .unsupportedOperation => 2
  | .illegalCommand => 3

/-- The 2-bit code of a kind (R90). -/
def kindCode : Kind → BitVec 2
  | .none => 0
  | .int => 1
  | .float => 2

/-- The 72 bits of a beat: `STATUS` 71:68, `KIND` 67:66, `SEQ` 65, `LAST` 64, `DATA` 63:0 (R90). -/
def packBeat (b : Beat) : BeatWord :=
  statusCode b.status ++ kindCode b.kind ++ BitVec.ofBool b.seq ++ BitVec.ofBool b.last ++ b.data

/-- The beat of a command that emits nothing and raises nothing (R90). -/
def noValueBeat : BeatWord := packBeat ⟨.ok, .none, false, true, 0⟩

/-- The beat of one emitted value (R90). -/
def valueBeat (k : Kind) (seq last : Bool) (d : Data64) : BeatWord := packBeat ⟨.ok, k, seq, last, d⟩

/-- The beats of the values emitted, in order, `LAST` on the final one only (R90). -/
def valueBeats (k : Kind) (seq : Bool) : List Data64 → List BeatWord
  | [] => []
  | [d] => [valueBeat k seq true d]
  | d :: ds => valueBeat k seq false d :: valueBeats k seq ds

/-- `DATA` of an integer value: the raw output in bits 31:0 (R91). -/
def intData (raw : Word) : Data64 := raw.setWidth 64

/-- The error beat: the code, and the header word of the command that failed in `DATA[39:0]` (R91, R304). -/
def errorBeat (e : Status) (hdr : CmdWord) : BeatWord := packBeat ⟨e, .none, false, true, hdr.setWidth 64⟩

/-- Sends beats on the response port, after those sent before (R90, R338). -/
def State.send (s : State) (bs : List BeatWord) : State := { s with resp := s.resp ++ bs }

/-- A command ends without a value (R90). -/
def answerNothing (s : State) : Result := .next (s.send [noValueBeat])

/-- RAISING AN ERROR, the block's one way to take an exception (R300, R304, R309): nothing is saved and nothing is
vectored; the one error beat is sent, and the block goes on with the next command, so there is no return from it
(R311). State changes a command's rule lists before its `raise` are made by the caller, in `s`. -/
def raiseError (e : Status) (hdr : CmdWord) (s : State) : Result := .next (s.send [errorBeat e hdr])

end Sys2Proof.Machine
end

