-- ==== Sys2Proof/Machine/BootDefault.lean ====
section
/-! DEFINITION. The algorithm XS128 of BOOT and of the DEFAULT core (spec/42_boot_default.md R161 to R167), the
text-seeding procedure of every scalar core (spec/40_commands.md R106), and the buffer fill (spec/44_lagged_cores.md
R221). -/

namespace Sys2Proof.Machine

/-- `init_str` of a scalar core (R106): from `init_int(g, 0)`, fold one character, advance once, repeat. -/
def scalarInitStr {σ : Type} (init0 : σ) (fold : σ → CharCode → σ) (stp : σ → Word × σ) (cs : List CharCode) : σ :=
  cs.foldl (fun st c => (stp (fold st c)).2) init0

/-- One step of XS128 (R161): the raw output and the new state. -/
def xs128Step (st : Xs128) : Word × Xs128 :=
  let t := st.x ^^^ (st.x <<< 11)
  let w := st.w ^^^ (st.w >>> 19) ^^^ t ^^^ (t >>> 8)
  (w, ⟨st.y, st.z, st.w, w⟩)

/-- `xs128_init_int(s)` (R162). -/
def xs128InitInt (s : Word) : Xs128 := ⟨s, 362436069, 521288629, 88675123⟩

/-- `xs128_fold(st, c)` (R163). -/
def xs128Fold (st : Xs128) (c : CharCode) : Xs128 := { st with x := st.x ^^^ charWordValue c }

/-- `xs128_init_str(cs)` (R164). -/
def xs128InitStr (cs : List CharCode) : Xs128 := scalarInitStr (xs128InitInt 0) xs128Fold xs128Step cs

/-- `boot_seed_int(s)`: what BOOT holds after it (R166). -/
def bootSeedInt (s : Word) : Xs128 := xs128InitInt s

/-- `boot_seed_str(cs)`: what BOOT holds after it (R166). -/
def bootSeedStr (cs : List CharCode) : Xs128 := xs128InitStr cs

/-- `boot_next()`: the draw and what BOOT holds after it (R166). -/
def bootNext (boot : Xs128) : Word × Xs128 := xs128Step boot

/-- `k` consecutive draws of BOOT, first draw first, and what BOOT holds after them (R221). -/
def bootDraws : Nat → Xs128 → List Word × Xs128
  | 0, boot => ([], boot)
  | k + 1, boot =>
    let r := bootNext boot
    let rs := bootDraws k r.2
    (r.1 :: rs.1, rs.2)

theorem bootDraws_length (k : Nat) : ∀ boot : Xs128, (bootDraws k boot).1.length = k := by
  induction k with
  | zero => intro _; rfl
  | succ k ih => intro boot; simp [bootDraws, ih]

/-- `red_g` of the cores modulo `M31` (R221). -/
def redM31 (v : Word) : Word := BitVec.ofNat 32 (v.toNat % Config.m31)

/-- `red_g` of every other core (R221). -/
def redNone (v : Word) : Word := v

/-- `fill(g)` (R221, R73): `K` draws of BOOT into `BUF[0 .. K-1]`, each reduced, and `P <- 0`. -/
def fillBuffer {K : Nat} (hK : 0 < K) (red : Word → Word) (boot : Xs128) : Buffer K × Xs128 :=
  ({ buf := ⟨⟨(bootDraws K boot).1.map red⟩, by simp [bootDraws_length]⟩, p := ⟨0, hK⟩ }, (bootDraws K boot).2)

end Sys2Proof.Machine
end

