-- ==== Sys2Proof/Machine/ModMul.lean ====
section
/-! DEFINITION. The modular-multiplication unit (spec/41_modmul.md): its contract (R140), which the cores call, and the
digit-decomposed forms in which it is built (R142 to R147). That all forms are one function is R145, R150. -/

namespace Sys2Proof.Machine

/-- `modmul(a, b, m)`: the least non-negative residue of the exact product (R140). -/
def modmul (a b m : Nat) : Nat := a * b % m

/-- `addmod(a, b, m)`: a 33-bit sum and one conditional subtraction (R149). -/
def addmod (a b m : Nat) : Nat := if m ≤ a + b then a + b - m else a + b

/-- `dig(a, k)`: decimal digit `k` of `a`, digit 0 being the units digit (R143). -/
def digitOf (a k : Nat) : Nat := a / Config.modmulRadix ^ k % Config.modmulRadix

/-- `T_b,m[k][d]`, the entry of the multiplier ROM (R142). -/
def tableEntry (b m k d : Nat) : Nat := d * b * Config.modmulRadix ^ k % m

/-- The digit positions 0..9 (R142, R143). -/
def digitPositions : List Nat := List.range Config.modmulDigits

/-- `modmul_digits(a, b, m)`: one table entry for each digit, summed modulo `m` (R144). -/
def modmulDigits (a b m : Nat) : Nat :=
  digitPositions.foldl (fun acc k => addmod acc (tableEntry b m k (digitOf a k)) m) 0

/-- What stage `k` of the pipeline holds (R146). -/
structure PipeStage where
  rem : Nat
  acc : Nat
  deriving DecidableEq, Repr

/-- One stage of the pipeline (R146). -/
def pipeStep (b m : Nat) (st : PipeStage) (k : Nat) : PipeStage where
  rem := st.rem / Config.modmulRadix
  acc := addmod st.acc (tableEntry b m k (st.rem % Config.modmulRadix)) m

/-- What the last stage of the pipeline holds when operand `a` entered the first (R146). -/
def pipeEnd (a b m : Nat) : PipeStage := digitPositions.foldl (pipeStep b m) ⟨a, 0⟩

/-- The row base `(b · 10^k) mod m`, computed as the operand goes through the stages (R147). -/
def rowBase (b m : Nat) : Nat → Nat
  | 0 => b % m
  | k + 1 => Config.modmulRadix * rowBase b m k % m

/-- The digit method with rows computed on the fly, for a variable multiplicand (R147). -/
def modmulRows (a b m : Nat) : Nat :=
  digitPositions.foldl (fun acc k => addmod acc (digitOf a k * rowBase b m k % m) m) 0

end Sys2Proof.Machine
end

