-- ==== Sys2Proof/Machine/LaggedCores.lean ====
section
/-! DEFINITION. The lagged word-array cores (spec/44_lagged_cores.md R220 to R240): every step reads its lags, pushes
the new word and answers it (R220). Their seeding is `fillBuffer` (R221). -/

namespace Sys2Proof.Machine

/-- R250 `step` (R222). -/
def r250Step (b : Buffer 250) : Word × Buffer 250 :=
  let v := lag b 103 ^^^ lag b 250
  (v, push b v)

/-- GFSR4 `step` (R225). -/
def gfsr4Step (b : Buffer 9689) : Word × Buffer 9689 :=
  let v := lag b 471 ^^^ lag b 1586 ^^^ lag b 6988 ^^^ lag b 9689
  (v, push b v)

/-- SWB2712 `step` (R230). -/
def swb2712Step (st : Swb2712) : Word × Swb2712 :=
  let x := lag st.b 12
  let y := lag st.b 27
  let v := swbDifference x y st.c
  (v, ⟨push st.b v, swbBorrow x y st.c⟩)

/-- SWB2712's seeding: the fill, and the borrow cleared (R221). -/
def swb2712Fill (boot : Xs128) : Swb2712 × Xs128 :=
  let f := fillBuffer (K := 27) (by decide) redNone boot
  (⟨f.1, false⟩, f.2)

/-- The sum of the four lagged words of DX1597, modulo `M31` (R235). -/
def dx1597Sum (b : Buffer 1597) : Nat :=
  addmod (addmod (lag b 1).toNat (lag b Config.dxL2).toNat Config.m31)
    (addmod (lag b Config.dxL3).toNat (lag b 1597).toNat Config.m31) Config.m31

/-- DX1597 `step` with multiplier `mult` (R235); the block's own is `DX_B` (R237). -/
def dx1597StepWith (mult : Nat) (b : Buffer 1597) : Word × Buffer 1597 :=
  let v := BitVec.ofNat 32 (modmul (dx1597Sum b) mult Config.m31)
  (v, push b v)

/-- DX1597 `step` (R235). -/
def dx1597Step (b : Buffer 1597) : Word × Buffer 1597 := dx1597StepWith Config.dxB b

/-- MRG5 `step` (R240). -/
def mrg5Step (b : Buffer 5) : Word × Buffer 5 :=
  let v := BitVec.ofNat 32
    (addmod (modmul (lag b 1).toNat 107374182 Config.m31) (modmul (lag b 5).toNat 104480 Config.m31) Config.m31)
  (v, push b v)

end Sys2Proof.Machine
end

