-- ==== Sys2Proof/Machine/Norm.lean ====
section
/-! DEFINITION. Normalisation of a raw output to a binary64 number (spec/40_commands.md R110; bit layout in
spec/30_encoding.md R91): exact integer arithmetic, rounded once, to nearest, ties to even. -/

namespace Sys2Proof.Machine

/-- The power of two that scales `n / d`, 0 < n < d, into [2^52, 2^53): a 53-bit significand (R110). -/
def normShift (n d : Nat) : Nat :=
  let k := 52 + Nat.log2 d - Nat.log2 n
  if 2 ^ 52 * d ≤ n * 2 ^ k then k else k + 1

/-- `num / den` rounded to the nearest integer, ties to even (R110). -/
def roundNearestEven (num den : Nat) : Nat :=
  let q := num / den
  let r := num % den
  if den < 2 * r then q + 1
  else if 2 * r = den then q + q % 2
  else q

/-- The significand of `n / d` after rounding, in [2^52, 2^53] (R110). -/
def normSignificand (n d : Nat) : Nat := roundNearestEven (n * 2 ^ normShift n d) d

/-- The binary64 bit pattern nearest to `n / d`, for `n < d`: sign 0, biased exponent in bits 62:52, fraction in 51:0
(R91, R110). A significand that rounded up to 2^53 carries into the exponent. -/
def binary64 (n d : Nat) : Nat :=
  if n = 0 then 0 else (1074 - normShift n d) * 2 ^ 52 + normSignificand n d

/-- `norm(g, raw)`, as the bit pattern of `DATA` (R91, R110). -/
def norm (g : CoreId) (raw : Word) : Data64 := BitVec.ofNat 64 (binary64 raw.toNat (modulus g))

end Sys2Proof.Machine
end

