-- ==== Sys2Proof/Machine/PhiloxCore.lean ====
section
/-! DEFINITION. The counter-based core (spec/46_philox.md R280 to R287). -/

namespace Sys2Proof.Machine

/-- `mulhilo(a, b)`: the exact 64-bit product, high word and low word (R281). -/
def mulhilo (a b : Word) : Word × Word :=
  (BitVec.ofNat 32 (a.toNat * b.toNat / 2 ^ 32), BitVec.ofNat 32 (a.toNat * b.toNat % 2 ^ 32))

/-- One round (R282); all right-hand sides use the old words. -/
def philoxRound (x : Vector Word 4) (k : Vector Word 2) : Vector Word 4 :=
  let p0 := mulhilo 0xD2511F53 x[0]
  let p1 := mulhilo 0xCD9E8D57 x[2]
  #v[p1.1 ^^^ x[1] ^^^ k[0], p1.2, p0.1 ^^^ x[3] ^^^ k[1], p0.2]

/-- The working key of the next round: each word plus its Weyl constant (R282, R283). -/
def philoxBump (k : Vector Word 2) : Vector Word 2 := #v[k[0] + 0x9E3779B9, k[1] + 0xBB67AE85]

/-- `n` rounds, the first with the key as given, each later one with the key bumped once more (R283). -/
def philoxRun : Nat → Vector Word 4 → Vector Word 2 → Vector Word 4
  | 0, c, _ => c
  | n + 1, c, k => philoxRun n (philoxRound c k) (philoxBump k)

/-- `philox_block(ctr, key)` (R283). -/
def philoxBlock (ctr : Vector Word 4) (key : Vector Word 2) : Vector Word 4 := philoxRun Config.philoxRounds ctr key

/-- `CTR` as one number, `CTR[0]` its least significant word (R280). -/
def ctrNumber (x : Vector Word 4) : Nat :=
  x[0].toNat + 2 ^ 32 * x[1].toNat + 2 ^ 64 * x[2].toNat + 2 ^ 96 * x[3].toNat

/-- The four words of a 128-bit number (R280). -/
def ctrOfNumber (n : Nat) : Vector Word 4 :=
  #v[BitVec.ofNat 32 n, BitVec.ofNat 32 (n / 2 ^ 32), BitVec.ofNat 32 (n / 2 ^ 64), BitVec.ofNat 32 (n / 2 ^ 96)]

/-- `ctr <- (ctr + 1) mod 2^128` (R284). -/
def ctrNext (x : Vector Word 4) : Vector Word 4 := ctrOfNumber ((ctrNumber x + 1) % 2 ^ 128)

/-- A new block: `OUT` filled from the counter and key, the counter advanced (R284). -/
def philoxRefill (st : Philox) : Philox := { st with out := philoxBlock st.ctr st.key, ctr := ctrNext st.ctr }

/-- Hands out `OUT[i]`; `i + 1` words of `OUT` have then been handed out (R33, R284). -/
def philoxTake (st : Philox) (i : Fin 4) : Word × Philox := (memRead st.out i, { st with idx := i.succ })

/-- PHILOX `step` (R284): where all four words have been handed out (`IDX = 4`), a new block first. -/
def philoxStep (st : Philox) : Word × Philox :=
  if h : st.idx.val < 4 then philoxTake st ⟨st.idx.val, h⟩ else philoxTake (philoxRefill st) 0

/-- The state after a seeding with the key given: counter and output buffer zero, `IDX = 4` (R286, R287). -/
def philoxSeeded (k0 k1 : Word) : Philox :=
  { key := #v[k0, k1], ctr := #v[0, 0, 0, 0], out := #v[0, 0, 0, 0], idx := 4 }

/-- PHILOX `init_int` (R286). -/
def philoxInitInt (s : Word) : Philox := philoxSeeded s 0

/-- PHILOX `init_str` (R287): two draws of BOOT, seeded with the text, are the key. -/
def philoxInitStr (cs : List CharCode) : Philox × Xs128 :=
  let r0 := bootNext (bootSeedStr cs)
  let r1 := bootNext r0.2
  (philoxSeeded r0.1 r1.1, r1.2)

end Sys2Proof.Machine
end

