-- ==== Sys2Proof/Machine/ScalarCores.lean ====
section
/-! DEFINITION. The seven scalar-recurrence cores (spec/43_scalar_cores.md): `init_int`, `step` and `fold` of each. A
step answers the raw output and the new registers. -/

namespace Sys2Proof.Machine

-- PARKMILLER (GID 1)

/-- PARKMILLER `init_int` (R176). -/
def parkMillerInitInt (s : Word) : ParkMiller :=
  ⟨if s.toNat % Config.m31 = 0 then 1 else BitVec.ofNat 31 (s.toNat % Config.m31)⟩

/-- PARKMILLER `step` (R177). -/
def parkMillerStep (st : ParkMiller) : Word × ParkMiller :=
  let x := modmul st.x.toNat 16807 Config.m31
  (BitVec.ofNat 32 x, ⟨BitVec.ofNat 31 x⟩)

/-- PARKMILLER `fold` (R179). -/
def parkMillerFold (st : ParkMiller) (c : CharCode) : ParkMiller :=
  let x := addmod st.x.toNat c.toNat Config.m31
  ⟨if x = 0 then 1 else BitVec.ofNat 31 x⟩

-- XORSHIFT32 (GID 2)

/-- The three sequential assignments with shifts 13, 17, 5 that XORSHIFT32 and KISS share (R181, R189). -/
def xorshiftTriple (x : Word) : Word :=
  let a := x ^^^ (x <<< 13)
  let b := a ^^^ (a >>> 17)
  b ^^^ (b <<< 5)

/-- XORSHIFT32 `init_int` (R180). -/
def xorshift32InitInt (s : Word) : Xorshift32 := ⟨if s = 0 then 1 else s⟩

/-- XORSHIFT32 `step` (R181). -/
def xorshift32Step (st : Xorshift32) : Word × Xorshift32 :=
  let x := xorshiftTriple st.x
  (x, ⟨x⟩)

/-- XORSHIFT32 `fold` (R183). -/
def xorshift32Fold (st : Xorshift32) (c : CharCode) : Xorshift32 :=
  let x := st.x ^^^ charWordValue c
  ⟨if x = 0 then 1 else x⟩

-- XORWOW (GID 3)

/-- XORWOW `init_int` (R184). -/
def xorwowInitInt (s : Word) : Xorwow := ⟨s, 362436069, 521288629, 88675123, 5783321, 6615241⟩

/-- XORWOW `step` (R185). -/
def xorwowStep (st : Xorwow) : Word × Xorwow :=
  let t := st.x ^^^ (st.x >>> 2)
  let v := (st.v ^^^ (st.v <<< 4)) ^^^ (t ^^^ (t <<< 1))
  let d := st.d + 362437
  (d + v, ⟨st.y, st.z, st.w, st.v, v, d⟩)

/-- XORWOW `fold` (R187). -/
def xorwowFold (st : Xorwow) (c : CharCode) : Xorwow := { st with x := st.x ^^^ charWordValue c }

-- KISS (GID 4)

/-- KISS `init_int` (R188). -/
def kissInitInt (s : Word) : Kiss := ⟨s, 362436069, 21288629, 14921776, false⟩

/-- KISS `step` (R189). -/
def kissStep (st : Kiss) : Word × Kiss :=
  let x := st.x + 545925293
  let y := xorshiftTriple st.y
  let t := kissSum st.z st.w st.c
  let w := BitVec.ofNat 31 t
  (x + y + w.setWidth 32, ⟨x, y, st.w, w, kissCarry t⟩)

/-- KISS `fold` (R191). -/
def kissFold (st : Kiss) (c : CharCode) : Kiss :=
  let y := st.y ^^^ charWordValue c
  { st with y := if y = 0 then 362436069 else y }

-- TAUS113 (GID 5)

/-- One component of the TAUS113 step: `((z & mask) << q) ^ (((z << s) ^ z) >> r)` (R192). -/
def tausComponent (z mask : Word) (s r q : Nat) : Word := ((z &&& mask) <<< q) ^^^ (((z <<< s) ^^^ z) >>> r)

/-- TAUS113 `step` (R192). -/
def taus113Step (st : Taus113) : Word × Taus113 :=
  let z1 := tausComponent st.z1 0xFFFFFFFE 6 13 18
  let z2 := tausComponent st.z2 0xFFFFFFF8 2 27 2
  let z3 := tausComponent st.z3 0xFFFFFFF0 13 21 7
  let z4 := tausComponent st.z4 0xFFFFFF80 3 12 13
  (z1 ^^^ z2 ^^^ z3 ^^^ z4, ⟨z1, z2, z3, z4⟩)

/-- `lcg(n) = (69069 · n) mod 2^32` (R193). -/
def tausLcg (n : Word) : Word := 69069 * n

/-- The floor under a component: below `b` it is raised by `b` (R193, R194). -/
def tausFloor (b : Word) (z : Word) : Word := if z.toNat < b.toNat then z + b else z

/-- The four components before the warm-up (R193). -/
def taus113Chain (s : Word) : Taus113 :=
  let s1 := if s = 0 then 1 else s
  let z1 := tausFloor 2 (tausLcg s1)
  let z2 := tausFloor 8 (tausLcg z1)
  let z3 := tausFloor 16 (tausLcg z2)
  let z4 := tausFloor 128 (tausLcg z3)
  ⟨z1, z2, z3, z4⟩

/-- `n` steps with the outputs discarded (R193). -/
def taus113Warm : Nat → Taus113 → Taus113
  | 0, st => st
  | n + 1, st => taus113Warm n (taus113Step st).2

/-- TAUS113 `init_int` (R193). -/
def taus113InitInt (s : Word) : Taus113 := taus113Warm 10 (taus113Chain s)

/-- TAUS113 `fold` (R194). -/
def taus113Fold (st : Taus113) (c : CharCode) : Taus113 :=
  { st with z1 := tausFloor 2 (st.z1 ^^^ charWordValue c) }

-- COVEYOU (GID 6)

/-- COVEYOU `init_int` (R198). -/
def coveyouInitInt (s : Word) : Coveyou := ⟨(s &&& 0xFFFFFFFC) ||| 2⟩

/-- COVEYOU `step` (R199): the multiplicand is variable (R147). -/
def coveyouStep (st : Coveyou) : Word × Coveyou :=
  let x := BitVec.ofNat 32 (modmul st.x.toNat (st.x + 1).toNat Config.m32)
  (x, ⟨x⟩)

/-- COVEYOU `fold` (R201). -/
def coveyouFold (st : Coveyou) (c : CharCode) : Coveyou := ⟨st.x ^^^ (charWordValue c <<< 2)⟩

-- KNUTHRAN2 (GID 7)

/-- KNUTHRAN2 `init_int` (R202). -/
def knuthran2InitInt (s : Word) : Knuthran2 :=
  let x : BitVec 31 := if s.toNat % Config.m31 = 0 then 1 else BitVec.ofNat 31 (s.toNat % Config.m31)
  ⟨x, x⟩

/-- KNUTHRAN2 `step` (R203). -/
def knuthran2Step (st : Knuthran2) : Word × Knuthran2 :=
  let n := addmod (modmul st.x1.toNat 271828183 Config.m31) (modmul st.x0.toNat 1833324378 Config.m31) Config.m31
  (BitVec.ofNat 32 n, ⟨st.x1, BitVec.ofNat 31 n⟩)

/-- KNUTHRAN2 `fold` (R205). -/
def knuthran2Fold (st : Knuthran2) (c : CharCode) : Knuthran2 :=
  let x1 := addmod st.x1.toNat c.toNat Config.m31
  ⟨st.x0, if x1 = 0 ∧ st.x0 = 0 then 1 else BitVec.ofNat 31 x1⟩

end Sys2Proof.Machine
end

