-- ==== Sys2Proof/Machine/TgfsrCores.lean ====
section
/-! DEFINITION. The twisted shift-register cores (spec/45_tgfsr_cores.md): the untempered word goes into the buffer, the
tempered one is the raw output. -/

namespace Sys2Proof.Machine

/-- `(o >> 1) ^ (a if o is odd, else 0)`: the twist both cores share (R261, R268). -/
def twist (o a : Word) : Word := if o.getLsbD 0 then (o >>> 1) ^^^ a else o >>> 1

/-- TT800's tempering (R261). -/
def tt800Temper (v : Word) : Word :=
  let y1 := v ^^^ ((v <<< 7) &&& 0x2B5B2500)
  let y2 := y1 ^^^ ((y1 <<< 15) &&& 0xDB8B0000)
  y2 ^^^ (y2 >>> 16)

/-- TT800 `step` (R261). -/
def tt800Step (b : Buffer 25) : Word × Buffer 25 :=
  let v := lag b 18 ^^^ twist (lag b 25) 0x8EBFD028
  (tt800Temper v, push b v)

/-- MT19937's tempering (R268). -/
def mt19937Temper (v : Word) : Word :=
  let t1 := v ^^^ (v >>> 11)
  let t2 := t1 ^^^ ((t1 <<< 7) &&& 0x9D2C5680)
  let t3 := t2 ^^^ ((t2 <<< 15) &&& 0xEFC60000)
  t3 ^^^ (t3 >>> 18)

/-- MT19937 `step` (R268). -/
def mt19937Step (b : Buffer 624) : Word × Buffer 624 :=
  let y := (lag b 624 &&& 0x80000000) ||| (lag b 623 &&& 0x7FFFFFFF)
  let v := lag b 227 ^^^ twist y 0x9908B0DF
  (mt19937Temper v, push b v)

/-- The word `init_genrand` puts at index `i`, `p` being the word before it (R266). -/
def mt19937SeedWord (i : Nat) (p : Word) : Word :=
  BitVec.ofNat 32 (modmul (p ^^^ (p >>> 30)).toNat 1812433253 Config.m32) + BitVec.ofNat 32 i

/-- `n` words from index `i` on, each made by `f` from its index and the word before it; `p` is the word before the
first. -/
def wordsFrom (f : Nat → Word → Word) : Nat → Nat → Word → List Word
  | 0, _, _ => []
  | n + 1, i, p => f i p :: wordsFrom f n (i + 1) (f i p)

theorem wordsFrom_length (f : Nat → Word → Word) (n : Nat) : ∀ (i : Nat) (p : Word), (wordsFrom f n i p).length = n := by
  induction n with
  | zero => intro _ _; rfl
  | succ n ih => intro i p; simp [wordsFrom, ih]

/-- MT19937 `init_int`: `init_genrand(s)` (R266). -/
def mt19937InitInt (s : Word) : Buffer 624 where
  buf := ⟨⟨s :: wordsFrom mt19937SeedWord 623 1 s⟩, by simp [wordsFrom_length]⟩
  p := 0

/-- MT19937 `init_str` (R267): one draw of BOOT, seeded with the text, is the integer `init_genrand` expands. -/
def mt19937InitStr (cs : List CharCode) : Buffer 624 × Xs128 :=
  let r := bootNext (bootSeedStr cs)
  (mt19937InitInt r.1, r.2)

end Sys2Proof.Machine
end

