-- ==== Sys2Proof/Machine/Contract.lean ====
section
/-! DEFINITION. The generator contract (spec/40_commands.md R100 to R111): `init_int`, `init_str` and `step` by core,
`seed_apply`, the ambient bookkeeping `book`, and the loop of the generate commands. -/

namespace Sys2Proof.Machine

/-- `init_int(g, s)` (R102, R107, R108): the generator states and BOOT after it. Only the buffer cores filled from BOOT
write BOOT. -/
def genInitInt (g : CoreId) (s : Word) (G : Gens) (boot : Xs128) : Gens × Xs128 :=
  match g with
  | .dflt => ({ G with dflt := xs128InitInt s }, boot)
  | .parkMiller => ({ G with parkMiller := parkMillerInitInt s }, boot)
  | .xorshift32 => ({ G with xorshift32 := xorshift32InitInt s }, boot)
  | .xorwow => ({ G with xorwow := xorwowInitInt s }, boot)
  | .kiss => ({ G with kiss := kissInitInt s }, boot)
  | .taus113 => ({ G with taus113 := taus113InitInt s }, boot)
  | .coveyou => ({ G with coveyou := coveyouInitInt s }, boot)
  | .knuthran2 => ({ G with knuthran2 := knuthran2InitInt s }, boot)
  | .r250 =>
    let f := fillBuffer (by decide) redNone (bootSeedInt s)
    ({ G with r250 := f.1 }, f.2)
  | .gfsr4 =>
    let f := fillBuffer (by decide) redNone (bootSeedInt s)
    ({ G with gfsr4 := f.1 }, f.2)
  | .tt800 =>
    let f := fillBuffer (by decide) redNone (bootSeedInt s)
    ({ G with tt800 := f.1 }, f.2)
  | .mt19937 => ({ G with mt19937 := mt19937InitInt s }, boot)
  | .dx1597 =>
    let f := fillBuffer (by decide) redM31 (bootSeedInt s)
    ({ G with dx1597 := f.1 }, f.2)
  | .mrg5 =>
    let f := fillBuffer (by decide) redM31 (bootSeedInt s)
    ({ G with mrg5 := f.1 }, f.2)
  | .swb2712 =>
    let f := swb2712Fill (bootSeedInt s)
    ({ G with swb2712 := f.1 }, f.2)
  | .philox => ({ G with philox := philoxInitInt s }, boot)

/-- `init_str(g, cs)` (R103, R106 to R108). -/
def genInitStr (g : CoreId) (cs : List CharCode) (G : Gens) (boot : Xs128) : Gens × Xs128 :=
  match g with
  | .dflt => ({ G with dflt := xs128InitStr cs }, boot)
  | .parkMiller =>
    ({ G with parkMiller := scalarInitStr (parkMillerInitInt 0) parkMillerFold parkMillerStep cs }, boot)
  | .xorshift32 =>
    ({ G with xorshift32 := scalarInitStr (xorshift32InitInt 0) xorshift32Fold xorshift32Step cs }, boot)
  | .xorwow => ({ G with xorwow := scalarInitStr (xorwowInitInt 0) xorwowFold xorwowStep cs }, boot)
  | .kiss => ({ G with kiss := scalarInitStr (kissInitInt 0) kissFold kissStep cs }, boot)
  | .taus113 => ({ G with taus113 := scalarInitStr (taus113InitInt 0) taus113Fold taus113Step cs }, boot)
  | .coveyou => ({ G with coveyou := scalarInitStr (coveyouInitInt 0) coveyouFold coveyouStep cs }, boot)
  | .knuthran2 => ({ G with knuthran2 := scalarInitStr (knuthran2InitInt 0) knuthran2Fold knuthran2Step cs }, boot)
  | .r250 =>
    let f := fillBuffer (by decide) redNone (bootSeedStr cs)
    ({ G with r250 := f.1 }, f.2)
  | .gfsr4 =>
    let f := fillBuffer (by decide) redNone (bootSeedStr cs)
    ({ G with gfsr4 := f.1 }, f.2)
  | .tt800 =>
    let f := fillBuffer (by decide) redNone (bootSeedStr cs)
    ({ G with tt800 := f.1 }, f.2)
  | .mt19937 =>
    let f := mt19937InitStr cs
    ({ G with mt19937 := f.1 }, f.2)
  | .dx1597 =>
    let f := fillBuffer (by decide) redM31 (bootSeedStr cs)
    ({ G with dx1597 := f.1 }, f.2)
  | .mrg5 =>
    let f := fillBuffer (by decide) redM31 (bootSeedStr cs)
    ({ G with mrg5 := f.1 }, f.2)
  | .swb2712 =>
    let f := swb2712Fill (bootSeedStr cs)
    ({ G with swb2712 := f.1 }, f.2)
  | .philox =>
    let f := philoxInitStr cs
    ({ G with philox := f.1 }, f.2)

/-- `step(g)` (R102): the raw output and the generator states after it. -/
def genStep (g : CoreId) (G : Gens) : Word × Gens :=
  match g with
  | .dflt =>
    let r := xs128Step G.dflt
    (r.1, { G with dflt := r.2 })
  | .parkMiller =>
    let r := parkMillerStep G.parkMiller
    (r.1, { G with parkMiller := r.2 })
  | .xorshift32 =>
    let r := xorshift32Step G.xorshift32
    (r.1, { G with xorshift32 := r.2 })
  | .xorwow =>
    let r := xorwowStep G.xorwow
    (r.1, { G with xorwow := r.2 })
  | .kiss =>
    let r := kissStep G.kiss
    (r.1, { G with kiss := r.2 })
  | .taus113 =>
    let r := taus113Step G.taus113
    (r.1, { G with taus113 := r.2 })
  | .coveyou =>
    let r := coveyouStep G.coveyou
    (r.1, { G with coveyou := r.2 })
  | .knuthran2 =>
    let r := knuthran2Step G.knuthran2
    (r.1, { G with knuthran2 := r.2 })
  | .r250 =>
    let r := r250Step G.r250
    (r.1, { G with r250 := r.2 })
  | .gfsr4 =>
    let r := gfsr4Step G.gfsr4
    (r.1, { G with gfsr4 := r.2 })
  | .tt800 =>
    let r := tt800Step G.tt800
    (r.1, { G with tt800 := r.2 })
  | .mt19937 =>
    let r := mt19937Step G.mt19937
    (r.1, { G with mt19937 := r.2 })
  | .dx1597 =>
    let r := dx1597Step G.dx1597
    (r.1, { G with dx1597 := r.2 })
  | .mrg5 =>
    let r := mrg5Step G.mrg5
    (r.1, { G with mrg5 := r.2 })
  | .swb2712 =>
    let r := swb2712Step G.swb2712
    (r.1, { G with swb2712 := r.2 })
  | .philox =>
    let r := philoxStep G.philox
    (r.1, { G with philox := r.2 })

/-- The block after `init_int(g, w)`. -/
def State.initInt (s : State) (g : CoreId) (w : Word) : State :=
  { s with gen := (genInitInt g w s.gen s.boot).1, boot := (genInitInt g w s.gen s.boot).2 }

/-- The block after `init_str(g, cs)`. -/
def State.initStr (s : State) (g : CoreId) (cs : List CharCode) : State :=
  { s with gen := (genInitStr g cs s.gen s.boot).1, boot := (genInitStr g cs s.gen s.boot).2 }

/-- `init_int(g, timeseed(g))`: samples the entropy port once (R104, R105, R109). -/
def State.initTime (s : State) (g : CoreId) : State := s.takeSample.initInt g (timeSeed g s.entropyWord)

/-- `SNAP[g] <- S[g]` (R105). -/
def State.takeSnapshot (s : State) (g : CoreId) : State := { s with snap := copyCore g s.gen s.snap }

/-- `S[g] <- SNAP[g]` (R122). -/
def State.restoreSnapshot (s : State) (g : CoreId) : State := { s with gen := copyCore g s.snap s.gen }

/-- The mode flags `seed_apply` writes (R105). -/
def State.setMode (s : State) (g : CoreId) (sd : SeedVal) : State :=
  (s.setNoseed g (noseedAfter sd)).setSnapv g (snapvAfter sd)

/-- `seed_apply(g, sd)` (R105). -/
def State.seedApply (s : State) (g : CoreId) (sd : SeedVal) : State :=
  match sd with
  | .none => ((s.setMode g sd).initTime g).setRecalc g 0
  | .int w => (((s.setMode g sd).initInt g w).setRecalc g 0).takeSnapshot g
  | .str cs => (((s.setMode g sd).initStr g cs).setRecalc g 0).takeSnapshot g

/-- `RECALC_FREQ` as the 17-bit counter holds it (R29). -/
def recalcLimit : BitVec 17 := BitVec.ofNat 17 Config.recalcFreq

/-- The fresh time seeding of `book`, when `RECALC[g]` has reached `RECALC_FREQ` (R109). -/
def State.reseedDue (s : State) (g : CoreId) : State :=
  if s.recalcOf g = recalcLimit then (s.initTime g).setRecalc g 0 else s

/-- `RECALC[g] <- RECALC[g] + 1` (R109). -/
def State.countValue (s : State) (g : CoreId) : State := s.setRecalc g (s.recalcOf g + 1)

/-- `book(g)` (R109). -/
def State.book (s : State) (g : CoreId) : State :=
  if s.noseedOf g then (s.reseedDue g).countValue g else s

/-- The raw output of `step(g)` in this state (R102). -/
def State.rawOf (s : State) (g : CoreId) : Word := (genStep g s.gen).1

/-- The block after `step(g)` (R102). -/
def State.stepCore (s : State) (g : CoreId) : State := { s with gen := (genStep g s.gen).2 }

/-- The loop of RANDOM and RANDOM_INT (R119, R120): `k` times `book(g)` and `step(g)`; the raw outputs in generation
order, and the block after them. -/
def State.generate (g : CoreId) : Nat → State → List Word × State
  | 0, s => ([], s)
  | k + 1, s =>
    let b := s.book g
    let r := State.generate g k (b.stepCore g)
    (b.rawOf g :: r.1, r.2)

/-- Whether core `g` gives raw integers: all do but DEFAULT, where the parameter decides (R117, R120, R168). -/
def givesIntegers (g : CoreId) : Bool := Config.defaultHasInt || decide (g ≠ .dflt)

/-- The beats of the values a generate command emits, encoded by kind (R90, R91). -/
def encodeRaw (k : Kind) (g : CoreId) (raw : Word) : Data64 :=
  match k with
  | .none => 0
  | .int => intData raw
  | .float => norm g raw

/-- NEXT and NEXT_INT once they may run: one step, one value, no bookkeeping (R116, R117). -/
def emitOne (k : Kind) (s : State) : Result :=
  .next ((s.stepCore s.cur).send [valueBeat k false true (encodeRaw k s.cur (s.rawOf s.cur))])

/-- RANDOM and RANDOM_INT once they may run: `count(n)` values with their bookkeeping (R119, R120). -/
def emitMany (k : Kind) (n : Int) (s : State) : Result :=
  let r := State.generate s.cur (valueCount n) s
  .next (r.2.send (valueBeats k (seqFlag n) (r.1.map (encodeRaw k s.cur))))

end Sys2Proof.Machine
end

