-- ==== Sys2Proof/Machine/GenerateCommands.lean ====
section
/-! DEFINITION. The meanings of the generate commands (spec/40_commands.md R116 to R120). -/

namespace Sys2Proof.Machine

/-- NEXT (R116). -/
def execNext (s : State) : Result := emitOne .float s

/-- NEXT_INT (R117): `UnsupportedOperation` on DEFAULT, before any state change (R168, R302). -/
def execNextInt (s : State) : Result :=
  if givesIntegers s.cur then emitOne .int s
  else raiseError .unsupportedOperation (headerWord .nextInt) s

/-- RANDOM (R119). -/
def execRandom (imm : BitVec 32) (s : State) : Result := emitMany .float (countOperand imm) s

/-- RANDOM_INT (R120): `UnsupportedOperation` on DEFAULT, before any state change (R168, R302). -/
def execRandomInt (imm : BitVec 32) (s : State) : Result :=
  if givesIntegers s.cur then emitMany .int (countOperand imm) s
  else raiseError .unsupportedOperation (headerWord (.randomInt imm)) s

end Sys2Proof.Machine
end

