-- ==== Sys2Proof/Machine/RegistryCommands.lean ====
section
/-! DEFINITION. The meanings of the registry commands (spec/40_commands.md R121, R122). -/

namespace Sys2Proof.Machine

/-- The switch of SELECT to core `g`: construct it, make it current, seed it with `LASTSEED` (R121). -/
def State.switchTo (s : State) (g : CoreId) : State :=
  let t : State := { s.setInst g true with cur := g }
  t.seedApply g t.lastSeed

/-- SELECT (R121). An unknown `gid` and the current core's own are accepted without effect (R305). -/
def execSelect (gid : BitVec 8) (s : State) : Result :=
  match coreOfGid gid with
  | some g => if g = s.cur then answerNothing s else answerNothing (s.switchTo g)
  | none => answerNothing s

/-- RESTORE (R122): only in deterministic mode and with a snapshot. -/
def execRestore (s : State) : Result :=
  if s.noseedOf s.cur = false ∧ s.snapvOf s.cur = true then answerNothing (s.restoreSnapshot s.cur)
  else answerNothing s

end Sys2Proof.Machine
end

