-- ==== Sys2Proof/Machine/SeedCommands.lean ====
section
/-! DEFINITION. The meanings of the seed commands and of a CHAR word as a header (spec/40_commands.md R112 to R115,
spec/30_encoding.md R84 (b)). -/

namespace Sys2Proof.Machine

/-- `LS_KIND <- NONE` (R112, R115). The other fields of `LASTSEED` keep what they hold; it is not meaningful (R28). -/
def State.forgetSeed (s : State) : State := { s with lsKind := .none }

/-- `LS_KIND <- INT; LS_INT <- w` (R113). -/
def State.keepSeedInt (s : State) (w : Word) : State := { s with lsKind := .int, lsInt := w }

/-- `LS_KIND <- STR; LS_LEN <- L; LS_STR[i] <- cs[i]` (R114). -/
def State.keepSeedStr (s : State) (cs : List CharCode) (h : cs.length ≤ Config.maxSeedLen) : State :=
  { s with lsKind := .str, lsLen := ⟨cs.length, Nat.lt_succ_of_le h⟩, lsStr := writeText cs s.lsStr }

/-- SEED_NONE (R112). -/
def execSeedNone (s : State) : Result := answerNothing (s.forgetSeed.seedApply s.cur .none)

/-- SEED_INT (R113). -/
def execSeedInt (imm : BitVec 32) (s : State) : Result :=
  answerNothing ((s.keepSeedInt (seedOperand imm)).seedApply s.cur (.int (seedOperand imm)))

/-- SEED_STR (R114). A text over `MAX_SEED_LEN` is illegal (R84 (d)) and writes nothing. -/
def execSeedStr (cs : List CharCode) (s : State) : Result :=
  if h : cs.length ≤ Config.maxSeedLen then answerNothing ((s.keepSeedStr cs h).seedApply s.cur (.str cs))
  else raiseError .illegalCommand (headerWord (.seedStr cs)) s

/-- SEED_OTHER (R115, R301): three flag writes, then the error `InvalidSeedType`; no generator state is written and the
entropy port is not sampled. -/
def execSeedOther (t : BitVec 4) (arg : BitVec 32) (s : State) : Result :=
  raiseError .invalidSeedType (headerWord (.seedOther t arg))
    ((s.setNoseed s.cur true).setSnapv s.cur false).forgetSeed

/-- CHAR where a header is expected: `IllegalCommand`, no state change (R84 (b), R303). -/
def execChar (ch : CharCode) (s : State) : Result := raiseError .illegalCommand (headerWord (.char ch)) s

end Sys2Proof.Machine
end

