-- ==== Sys2Proof/Machine/Dispatch.lean ====
section
/-! DEFINITION. One arm for each constructor of `Instr`. -/

namespace Sys2Proof.Machine

def exec (i : Instr) (s : State) : Host.Outcome State Fault Refusal :=
  match i with
  | .seedNone => Sys2Proof.Machine.execSeedNone s
  | .seedInt imm => Sys2Proof.Machine.execSeedInt imm s
  | .seedStr cs => Sys2Proof.Machine.execSeedStr cs s
  | .seedOther t arg => Sys2Proof.Machine.execSeedOther t arg s
  | .next => Sys2Proof.Machine.execNext s
  | .nextInt => Sys2Proof.Machine.execNextInt s
  | .random imm => Sys2Proof.Machine.execRandom imm s
  | .randomInt imm => Sys2Proof.Machine.execRandomInt imm s
  | .select gid => Sys2Proof.Machine.execSelect gid s
  | .restore => Sys2Proof.Machine.execRestore s
  | .char ch => Sys2Proof.Machine.execChar ch s

end Sys2Proof.Machine
end

