-- ==== Sys2Proof/Machine/Step.lean ====
section
/-! DEFINITION. One step of the block: the next command of the command port, decoded and executed to completion
(spec/40_commands.md R100, spec/20_memory.md R67). -/

namespace Sys2Proof.Machine

/-- One step (R100): decode at the head of the command stream, take the command's words off it, execute. An illegal
command raises `IllegalCommand` and nothing else happens (R84, R303). While no whole command has arrived the block
waits: nothing changes (R335). DEDUCED: log entries 5 and 20. -/
def step (s : State) : Host.Outcome State Fault Refusal :=
  match decode s.cmd with
  | .instr i rest => exec i { s with cmd := rest }
  | .illegal _ hdr rest => raiseError .illegalCommand hdr { s with cmd := rest }
  | .waiting => .next s

/-- `s` with the instruction whose bits are `w` presented at the command port ahead of whatever waits there, so that
the next step runs it. It stands for the host presenting that command (log entries 4 and 18). -/
def State.withFetchWord (s : State) (nbits w : Nat) : State := { s with cmd := wordsOfBits nbits w ++ s.cmd }

end Sys2Proof.Machine
end

