-- ==== Sys2Proof/Machine/Reset.lean ====
section
/-! DEFINITION. The reset input (spec/70_reset_and_hazards.md R330, R331). It acts from outside: between two steps, or in
the middle of the command that the next step would run. -/

namespace Sys2Proof.Machine

/-- The reset sequence (spec/70_reset_and_hazards.md R330, R331), as the reset input runs it between two steps: the
state of a block with no history, `seed_apply(0, NONE)` on it. Nothing survives but what the entropy port carries, the
count of its samples and the beats already sent (DESIGN CHOICE, log entry 10). -/
def State.hardReset (s : State) : State :=
  let blank : State :=
    { State.resetWith 0 s.ent s.entCount with
      gen := Gens.zero, noseed := Vector.replicate Config.ncores false, resp := s.resp }
  blank.seedApply .dflt .none

/-- The beats of the response a step from `s` to `t` has sent (R90). -/
def State.beatsSince (s t : State) : List BeatWord := t.resp.drop s.resp.length

/-- How far a command had come when reset stopped it: `k` beats of its response have been sent and `n` of its samples of
the entropy port taken, neither more than the whole command `s` to `t` would have. Of the command nothing else is left
(R331: its partial effects are discarded). -/
def State.cutShort (s t : State) (k n : Nat) : State :=
  let m := min n (t.entCount - s.entCount)
  { s with resp := s.resp ++ (s.beatsSince t).take k, ent := s.ent.drop m, entCount := s.entCount + m }

/-- A reset in the middle of the command the next step would run (R331): the command is aborted after `k` beats and `n`
samples, no further beat of its response is sent, and the reset sequence follows. How many samples an aborted command has
taken is left open: every number up to its whole is allowed (DESIGN CHOICE, log entry 10). While the block waits for the
characters of a SEED_STR no beat has been sent, and reset is the only way out (R335). -/
def State.resetDuring (s : State) (k n : Nat) : State :=
  match step s with
  | .next t => (s.cutShort t k n).hardReset
  | .fault _ => s.hardReset
  | .refused _ => s.hardReset

end Sys2Proof.Machine
end

