-- ==== Sys2Proof/Safety.lean ====
section
/-! DEFINITION. The terms claims are stated in: the generator state of one core as a value, the invariants of
spec/10_state.md R39, the state that can be observed (R36), and runs of commands (spec/70_reset_and_hazards.md R339). -/

namespace Sys2Proof.Machine

/-- `S[g]` or `SNAP[g]` as one value (R20 (c), R30). -/
inductive CoreState where
  | xs128 (st : Xs128)
  | parkMiller (st : ParkMiller)
  | xorshift32 (st : Xorshift32)
  | xorwow (st : Xorwow)
  | kiss (st : Kiss)
  | taus113 (st : Taus113)
  | coveyou (st : Coveyou)
  | knuthran2 (st : Knuthran2)
  | r250 (st : Buffer 250)
  | gfsr4 (st : Buffer 9689)
  | tt800 (st : Buffer 25)
  | mt19937 (st : Buffer 624)
  | dx1597 (st : Buffer 1597)
  | mrg5 (st : Buffer 5)
  | swb2712 (st : Swb2712)
  | philox (st : Philox)
  deriving DecidableEq, Repr

/-- The generator state of core `g` in `G`. -/
def coreState (g : CoreId) (G : Gens) : CoreState :=
  match g with
  | .dflt => .xs128 G.dflt
  | .parkMiller => .parkMiller G.parkMiller
  | .xorshift32 => .xorshift32 G.xorshift32
  | .xorwow => .xorwow G.xorwow
  | .kiss => .kiss G.kiss
  | .taus113 => .taus113 G.taus113
  | .coveyou => .coveyou G.coveyou
  | .knuthran2 => .knuthran2 G.knuthran2
  | .r250 => .r250 G.r250
  | .gfsr4 => .gfsr4 G.gfsr4
  | .tt800 => .tt800 G.tt800
  | .mt19937 => .mt19937 G.mt19937
  | .dx1597 => .dx1597 G.dx1597
  | .mrg5 => .mrg5 G.mrg5
  | .swb2712 => .swb2712 G.swb2712
  | .philox => .philox G.philox

/-- The legal values of core `g`'s registers (R21, R39). What a type already says (the 31-bit registers and the carry
of KISS, the borrow of SWB2712, `P < K`, `IDX ≤ 4`) is not repeated. -/
def legalCore (g : CoreId) (G : Gens) : Prop :=
  match g with
  | .dflt => True
  | .parkMiller => 1 ≤ G.parkMiller.x.toNat ∧ G.parkMiller.x.toNat ≤ Config.m31 - 1
  | .xorshift32 => G.xorshift32.x ≠ 0
  | .xorwow => True
  | .kiss => G.kiss.y ≠ 0
  | .taus113 => True
  | .coveyou => G.coveyou.x.toNat % 4 = 2
  | .knuthran2 =>
    G.knuthran2.x0.toNat < Config.m31 ∧ G.knuthran2.x1.toNat < Config.m31 ∧ ¬(G.knuthran2.x0 = 0 ∧ G.knuthran2.x1 = 0)
  | .r250 => True
  | .gfsr4 => True
  | .tt800 => True
  | .mt19937 => True
  | .dx1597 => ∀ i : Fin 1597, G.dx1597.buf[i].toNat < Config.m31
  | .mrg5 => ∀ i : Fin 5, G.mrg5.buf[i].toNat < Config.m31
  | .swb2712 => True
  | .philox => True

/-- What every step keeps. A core is spoken for only once it has been constructed, that is seeded (`INST[g] = 1`):
R39 states its invariants "for a core once it has been seeded". -/
structure Inv (s : State) : Prop where
  /-- The current core has been constructed (R31, R121). -/
  instCur : s.instOf s.cur = true
  /-- The registers of a constructed core are legal (R39). -/
  legalGen : ∀ g, s.instOf g = true → legalCore g s.gen
  /-- So are those of its snapshot, where it has one (R30). -/
  legalSnap : ∀ g, s.instOf g = true → s.snapvOf g = true → legalCore g s.snap
  /-- `RECALC[g]` stays in 0 .. `RECALC_FREQ` (R29, R109). -/
  recalcRange : ∀ g, s.instOf g = true → (s.recalcOf g).toNat ≤ Config.recalcFreq
  /-- It is 0 in deterministic mode (R109). -/
  recalcDeterministic : ∀ g, s.instOf g = true → s.noseedOf g = false → s.recalcOf g = 0
  /-- A core has a snapshot exactly in deterministic mode (R105, R115, R122). -/
  snapshotMode : ∀ g, s.instOf g = true → s.snapvOf g = !(s.noseedOf g)
  /-- The current core is in ambient mode exactly when the last seed was absent or refused (R115). -/
  lastSeedMode : s.noseedOf s.cur = decide (s.lsKind = .none)
  /-- A PHILOX snapshot has `IDX = 4` and `CTR = 0` (R288). -/
  philoxSnapshot : s.instOf .philox = true → s.snapvOf .philox = true →
    s.snap.philox.idx = 4 ∧ ctrNumber s.snap.philox.ctr = 0

/-- Two states no response can tell apart (R36): they agree on the ports, on `CUR`, on the meaning of `LASTSEED`, and
on the flags, counter, state and (where valid) snapshot of the current core. What the other cores hold, `BOOT`, the
constructed bits, and the parts of `LASTSEED` that are not meaningful may differ. -/
structure Alike (s t : State) : Prop where
  cur : s.cur = t.cur
  lastSeed : s.lastSeed = t.lastSeed
  noseed : s.noseedOf s.cur = t.noseedOf s.cur
  recalc : s.recalcOf s.cur = t.recalcOf s.cur
  snapv : s.snapvOf s.cur = t.snapvOf s.cur
  gen : coreState s.cur s.gen = coreState s.cur t.gen
  snap : s.snapvOf s.cur = true → coreState s.cur s.snap = coreState s.cur t.snap
  cmd : s.cmd = t.cmd
  ent : s.ent = t.ent
  entCount : s.entCount = t.entCount
  resp : s.resp = t.resp

/-- Everything a core owns, but for its constructed bit, is the same in `s` and `t`. -/
structure SameCore (g : CoreId) (s t : State) : Prop where
  gen : coreState g t.gen = coreState g s.gen
  snap : coreState g t.snap = coreState g s.snap
  noseed : t.noseedOf g = s.noseedOf g
  recalc : t.recalcOf g = s.recalcOf g
  snapv : t.snapvOf g = s.snapvOf g

/-- The four fields of `LASTSEED` (R28) are the same in `s` and `t`. -/
structure SameLastSeed (s t : State) : Prop where
  kind : t.lsKind = s.lsKind
  int : t.lsInt = s.lsInt
  len : t.lsLen = s.lsLen
  str : t.lsStr = s.lsStr

/-- The entropy port has been sampled exactly `n` times between `s` and `t` (R64, R104). -/
structure Sampled (n : Nat) (s t : State) : Prop where
  count : t.entCount = s.entCount + n
  rest : t.ent = s.ent.drop n

/-- The generator state `seed_apply(g, sd)` leaves in core `g` when the entropy port carries `e`: a function of `g`, the
seed and, for an absent seed, the sample (spec/40_commands.md R102, R105, R123). -/
def initialState (g : CoreId) (sd : SeedVal) (e : Word) : CoreState :=
  match sd with
  | .none => coreState g (genInitInt g (timeSeed g e) Gens.zero ⟨0, 0, 0, 0⟩).1
  | .int w => coreState g (genInitInt g w Gens.zero ⟨0, 0, 0, 0⟩).1
  | .str cs => coreState g (genInitStr g cs Gens.zero ⟨0, 0, 0, 0⟩).1

/-- Whether seeding core `g` with `sd` runs BOOT: the buffer cores filled from it do, MT19937 and PHILOX for a text only,
the others never (spec/10_state.md R32, spec/40_commands.md R106 to R108). -/
def usesBoot (g : CoreId) (sd : SeedVal) : Bool :=
  match g with
  | .dflt => false
  | .parkMiller => false
  | .xorshift32 => false
  | .xorwow => false
  | .kiss => false
  | .taus113 => false
  | .coveyou => false
  | .knuthran2 => false
  | .r250 => true
  | .gfsr4 => true
  | .tt800 => true
  | .mt19937 => decide (seedKind sd = .str)
  | .dx1597 => true
  | .mrg5 => true
  | .swb2712 => true
  | .philox => decide (seedKind sd = .str)

/-- What `seed_apply(g, sd)` leaves of the cores and the entropy port (spec/40_commands.md R105): core `g` in its initial
state, in the mode of the seed, with its count at 0; the snapshot equal to the state for a seed that was given and
untouched for an absent one; BOOT untouched where the seeding does not run it; every other core untouched; one sample
taken for an absent seed and none otherwise. -/
structure Seeded (g : CoreId) (sd : SeedVal) (s t : State) : Prop where
  gen : coreState g t.gen = initialState g sd s.entropyWord
  snap : coreState g t.snap = if sd = .none then coreState g s.snap else coreState g t.gen
  noseed : t.noseedOf g = decide (sd = .none)
  snapv : t.snapvOf g = decide (sd ≠ .none)
  recalc : t.recalcOf g = 0
  sampled : Sampled (if sd = .none then 1 else 0) s t
  boot : usesBoot g sd = false → t.boot = s.boot
  others : ∀ h, h ≠ g → SameCore h s t

/-- What RANDOM and RANDOM_INT never write (spec/40_commands.md R119, R120): everything but `RECALC[g]`, `S[g]`, the
entropy port, the response port and, on a core whose time seeding runs it, BOOT. -/
structure GenerateFrame (g : CoreId) (s t : State) : Prop where
  cur : t.cur = s.cur
  lastSeed : SameLastSeed s t
  noseed : t.noseed = s.noseed
  snapv : t.snapv = s.snapv
  inst : t.inst = s.inst
  snap : t.snap = s.snap
  cmd : t.cmd = s.cmd
  boot : usesBoot g .none = false → t.boot = s.boot
  others : ∀ h, h ≠ g → SameCore h s t

/-- The block after `j` rounds of the loop of RANDOM and RANDOM_INT: `book(g)`, then `step(g)` (R119, R120). -/
def loopState (g : CoreId) (s : State) : Nat → State
  | 0 => s
  | j + 1 => ((loopState g s j).book g).stepCore g

/-- The raw output of round `j` of that loop, counting from 0. -/
def loopRaw (g : CoreId) (s : State) (j : Nat) : Word := ((loopState g s j).book g).rawOf g

/-- The status a command answers with (spec/60_exceptions.md R300 to R303, R308). -/
def statusOf (i : Instr) (s : State) : Status :=
  match i with
  | .seedNone => .ok
  | .seedInt _ => .ok
  | .seedStr cs => if cs.length ≤ Config.maxSeedLen then .ok else .illegalCommand
  | .seedOther _ _ => .invalidSeedType
  | .next => .ok
  | .nextInt => if givesIntegers s.cur then .ok else .unsupportedOperation
  | .random _ => .ok
  | .randomInt _ => if givesIntegers s.cur then .ok else .unsupportedOperation
  | .select _ => .ok
  | .restore => .ok
  | .char _ => .illegalCommand

/-- The generator states after `k` steps of core `g` (R102). -/
def gensAfter (g : CoreId) : Nat → Gens → Gens
  | 0, G => G
  | k + 1, G => gensAfter g k (genStep g G).2

/-- Raw output number `k` of core `g`, counting from 0 (R102, R123). -/
def rawAt (g : CoreId) (k : Nat) (G : Gens) : Word := (genStep g (gensAfter g k G)).1

/-- Raw output number `k` (from 0) of the current core, if only generate commands follow. -/
def State.streamAt (s : State) (k : Nat) : Word := rawAt s.cur k s.gen

/-- Samples among `c` values of RANDOM or RANDOM_INT: the positive multiples of `RECALC_FREQ` in
`RECALC .. RECALC + c - 1`, in ambient mode (spec/40_commands.md R119, corner cases). -/
def ambientSamples (s : State) (c : Nat) : Nat :=
  if s.noseedOf s.cur then ((s.recalcOf s.cur).toNat + c - 1) / Config.recalcFreq else 0

/-- How many samples of the entropy port a command takes in state `s` (spec/60_exceptions.md R322). -/
def samplesTaken (i : Instr) (s : State) : Nat :=
  match i with
  | .seedNone => 1
  | .seedInt _ => 0
  | .seedStr _ => 0
  | .seedOther _ _ => 0
  | .next => 0
  | .nextInt => 0
  | .random imm => ambientSamples s (valueCount (countOperand imm))
  | .randomInt imm => if givesIntegers s.cur then ambientSamples s (valueCount (countOperand imm)) else 0
  | .select gid =>
    match coreOfGid gid with
    | some g => if g ≠ s.cur ∧ s.lsKind = .none then 1 else 0
    | none => 0
  | .restore => 0
  | .char _ => 0

/-- The four generate commands (R116 to R120). -/
def isGenerate : Instr → Bool
  | .next => true
  | .nextInt => true
  | .random _ => true
  | .randomInt _ => true
  | .seedNone => false
  | .seedInt _ => false
  | .seedStr _ => false
  | .seedOther _ _ => false
  | .select _ => false
  | .restore => false
  | .char _ => false

/-- The states after a list of commands, one after another (R67); none if one does not answer a next state. -/
def runInstrs : List Instr → State → Option State
  | [], s => some s
  | i :: is, s =>
    match exec i s with
    | .next t => runInstrs is t
    | .fault _ => none
    | .refused _ => none

/-- The state after a word stream has been presented to `s` and the block has run until it waits (R339): as many steps
as there are words are enough, since every command takes at least one. -/
def runWords (ws : List CmdWord) (s : State) : Host.Outcome State Fault Refusal :=
  Host.Core.run Sys2Proof.core ws.length { s with cmd := s.cmd ++ ws }

/-- The value of a finite binary64 bit pattern with sign 0: exponent in bits 62:52, fraction in 51:0 (R91). -/
def binary64Value (d : Data64) : ℚ :=
  let e : Nat := d.toNat / 2 ^ 52
  let f : Nat := d.toNat % 2 ^ 52
  if e = 0 then (f : ℚ) * (2 : ℚ) ^ (-1074 : Int) else ((2 ^ 52 + f : Nat) : ℚ) * (2 : ℚ) ^ ((e : Int) - 1075)

end Sys2Proof.Machine
end

