-- ==== Sys2Proof/Certificates/Slice0/Obligations.lean ====
section
/-! DEFINITION. The statements for the provers. Each docstring names the rules of spec/ it formalises. -/

open Sys2Proof Sys2Proof.Machine

-- ENCODING (spec/30_encoding.md)

/-- Decoding the words of a well-formed command gives the command back, whatever follows (R80 to R86). -/
def Obligations.EncodedCommandDecodes : Prop :=
  ∀ (i : Instr) (rest : List CmdWord), i.wf = true → decode (encode i ++ rest) = .instr i rest

/-- Every command the decoder finds is well-formed, and the words taken are exactly its words: no bit of an encoding is
dropped or ignored by the decoder (R80 to R86). -/
def Obligations.DecodedCommandIsItsWords : Prop :=
  ∀ (ws : List CmdWord) (i : Instr) (rest : List CmdWord),
    decode ws = .instr i rest → i.wf = true ∧ ws = encode i ++ rest

/-- R84, R303: an illegal header word — (a) an unused opcode, (b) a CHAR word, (c) a one in a "must be 0" field,
(d) a text longer than `MAX_SEED_LEN` — is consumed alone, changes no state and is answered with one `IllegalCommand`
beat that repeats it; a SEED_STR one of whose `L` extension words is malformed is consumed with all of them, changes no
state, and the beat repeats the SEED_STR header. -/
def Obligations.IllegalCommandsChangeNothing : Prop :=
  (∀ (s : State) (w : CmdWord) (rest : List CmdWord),
    let op := (opField w).toNat
    let arg := (argField w).toNat
    ((op ≤ 0x0F ∨ (0x24 ≤ op ∧ op ≤ 0x2F) ∨ (0x32 ≤ op ∧ op ≤ 0x7F) ∨ 0x81 ≤ op) ∨
      op = 0x80 ∨
      ((op = 0x10 ∨ op = 0x20 ∨ op = 0x21 ∨ op = 0x31) ∧ arg ≠ 0) ∨ (op = 0x30 ∧ 2 ^ 8 ≤ arg) ∨
      (op = 0x12 ∧ 256 < arg)) →
    step { s with cmd := w :: rest } =
      .next { s with cmd := rest
                     resp := s.resp ++ [packBeat ⟨.illegalCommand, .none, false, true, w.setWidth 64⟩] }) ∧
  (∀ (s : State) (hdr : CmdWord) (ext rest : List CmdWord),
    (opField hdr).toNat = 0x12 → (argField hdr).toNat ≤ 256 → ext.length = (argField hdr).toNat →
    (∃ w ∈ ext, (opField w).toNat ≠ 0x80 ∨ 2 ^ 16 ≤ (argField w).toNat) →
    step { s with cmd := hdr :: (ext ++ rest) } =
      .next { s with cmd := rest
                     resp := s.resp ++ [packBeat ⟨.illegalCommand, .none, false, true, hdr.setWidth 64⟩] })

/-- R85, R335: a legal SEED_STR header with `L` takes exactly the next `L` words, whatever they contain; until they have
all arrived the block waits and nothing changes (waiting is a step that answers the same state: log entry 5). -/
def Obligations.TextTakesExactlyItsWords : Prop :=
  ∀ (hdr : CmdWord) (ext rest : List CmdWord), (opField hdr).toNat = 0x12 → (argField hdr).toNat ≤ 256 →
    (ext.length = (argField hdr).toNat →
      (∃ cs, decode (hdr :: (ext ++ rest)) = .instr (.seedStr cs) rest) ∨
      decode (hdr :: (ext ++ rest)) = .illegal .malformedChar hdr rest) ∧
    (ext.length < (argField hdr).toNat → ∀ s : State, step { s with cmd := hdr :: ext } = .next { s with cmd := hdr :: ext })

/-- R86 and spec/opcode_table.json: no word matches two rows of the opcode table. -/
def Obligations.OpcodeRowsAreDisjoint : Prop :=
  ∀ (w : CmdWord), ∀ r ∈ opcodeTable, ∀ q ∈ opcodeTable, rowMatches r w = true → rowMatches q w = true → r = q

/-- Words written out from the encoding of R81 to R83 decode to the commands they stand for (R87, V500 to V506). -/
def Obligations.WrittenOutWordsDecode : Prop :=
  decode [0x1000000000] = .instr .seedNone [] ∧
  decode [0x11075BCD15] = .instr (.seedInt 123456789) [] ∧
  decode [0x1200000002, 0x8000000061, 0x800000FFFF] = .instr (.seedStr [0x61, 0xFFFF]) [] ∧
  decode [0x1FDEADBEEF] = .instr (.seedOther 15 0xDEADBEEF) [] ∧
  decode [0x2000000000] = .instr .next [] ∧
  decode [0x2100000000] = .instr .nextInt [] ∧
  decode [0x2280000000] = .instr (.random 0x80000000) [] ∧
  decode [0x23000003E8] = .instr (.randomInt 1000) [] ∧
  decode [0x30000000FF] = .instr (.select 255) [] ∧
  decode [0x3100000000] = .instr .restore [] ∧
  decode [0x8000000061] = .instr (.char 0x61) []

/-- R100: when the words at the command port decode to a command, a step is the meaning of that command, run after its
words have been taken off the port (all of them together, in one step: log entry 20). -/
def Obligations.StepRunsTheDecodedCommand : Prop :=
  ∀ (s : State) (i : Instr) (rest : List CmdWord),
    decode s.cmd = .instr i rest → step s = exec i { s with cmd := rest }

/-- R90, R300: the fields of a response beat stand at the bits the rule gives, and the status codes and kinds are numbered
as the rules number them. -/
def Obligations.BeatFieldsStandWhereTheRuleSays : Prop :=
  (statusCode .ok = 0 ∧ statusCode .invalidSeedType = 1 ∧ statusCode .unsupportedOperation = 2 ∧
    statusCode .illegalCommand = 3 ∧ kindCode .none = 0 ∧ kindCode .int = 1 ∧ kindCode .float = 2) ∧
  ∀ b : Beat,
    (packBeat b).extractLsb' 68 4 = statusCode b.status ∧ (packBeat b).extractLsb' 66 2 = kindCode b.kind ∧
    (packBeat b).getLsbD 65 = b.seq ∧ (packBeat b).getLsbD 64 = b.last ∧ (packBeat b).extractLsb' 0 64 = b.data

-- SEED COMMANDS (spec/40_commands.md R105, R112 to R115)

/-- R105: `seed_apply(g, sd)` for every core and every kind of seed. That fields which are not meaningful keep what they
hold (the snapshot of an ambient core, BOOT where the seeding does not run it) is the model's reading, log entry 9. -/
def Obligations.SeedApplyLeavesTheSeededState : Prop :=
  ∀ (s : State) (g : CoreId) (sd : SeedVal), Seeded g sd s (s.seedApply g sd) ∧ (s.seedApply g sd).cur = s.cur ∧
    SameLastSeed s (s.seedApply g sd) ∧ (s.seedApply g sd).inst = s.inst ∧ (s.seedApply g sd).cmd = s.cmd ∧
    (s.seedApply g sd).resp = s.resp

/-- R112: SEED_NONE forgets the last seed and seeds the current core from one sample of the entropy port; no error, one
beat without a value. That the fields of LASTSEED which are no longer meaningful stay is log entry 9.
R104, R105: the time seed is the sample modulo `M[g]`, and an ambient seeding gives the state of the integer seeding with
it. -/
def Obligations.SeedNoneSeedsFromTheEntropyPort : Prop :=
  (∀ s : State, ∃ t, exec .seedNone s = .next t ∧ Seeded s.cur .none s t ∧ t.lsKind = .none ∧
    t.lsInt = s.lsInt ∧ t.lsLen = s.lsLen ∧ t.lsStr = s.lsStr ∧ t.cur = s.cur ∧ t.inst = s.inst ∧ t.cmd = s.cmd ∧
    t.resp = s.resp ++ [packBeat ⟨.ok, .none, false, true, 0⟩]) ∧
  ∀ (g : CoreId) (e : Word), (timeSeed g e).toNat = e.toNat % modulus g ∧
    initialState g .none e = initialState g (.int (timeSeed g e)) e

/-- R113: SEED_INT keeps the integer as the last seed and seeds the current core with it, deterministically (the text of
an earlier seed stays: log entry 9). -/
def Obligations.SeedIntSeedsTheCurrentCore : Prop :=
  ∀ (s : State) (imm : BitVec 32), ∃ t, exec (.seedInt imm) s = .next t ∧ Seeded s.cur (.int imm) s t ∧
    t.lsKind = .int ∧ t.lsInt = imm ∧ t.lsLen = s.lsLen ∧ t.lsStr = s.lsStr ∧ t.cur = s.cur ∧ t.inst = s.inst ∧
    t.cmd = s.cmd ∧ t.resp = s.resp ++ [packBeat ⟨.ok, .none, false, true, 0⟩]

/-- R114: SEED_STR keeps the text in `LS_STR[0 .. L-1]` and seeds the current core with it, deterministically (what stood
beyond the text, and an earlier integer, stay: log entry 9). R103, R106: that state is `init_str` of the core, whatever the
registers held; on a scalar core the empty text is `init_int(g, 0)`, and one more character is one more fold followed by
one more step. (The text seedings of the other cores: FillWritesTheDrawsInOrder, Mt19937SeedingRecurrence,
PhiloxSeedingAndKnownAnswers.) -/
def Obligations.SeedStrSeedsTheCurrentCore : Prop :=
  (∀ (s : State) (cs : List CharCode), cs.length ≤ 256 → ∃ t, exec (.seedStr cs) s = .next t ∧
    Seeded s.cur (.str cs) s t ∧ t.lsKind = .str ∧ t.lsLen.val = cs.length ∧ t.lsInt = s.lsInt ∧
    (∀ i : Fin 256, t.lsStr[i] = cs.getD i.val s.lsStr[i]) ∧ t.cur = s.cur ∧ t.inst = s.inst ∧ t.cmd = s.cmd ∧
    t.resp = s.resp ++ [packBeat ⟨.ok, .none, false, true, 0⟩]) ∧
  ∀ (cs : List CharCode) (c : CharCode) (G : Gens) (boot : Xs128),
    (∀ (g : CoreId) (e : Word), initialState g (.str cs) e = coreState g (genInitStr g cs G boot).1) ∧
    (∀ g : CoreId, g.idx.val ≤ 7 → genInitStr g [] G boot = genInitInt g 0 G boot) ∧
    let before := fun g => (genInitStr g cs G boot).1
    let after := fun g => (genInitStr g (cs ++ [c]) G boot).1
    (after .dflt).dflt = (xs128Step (xs128Fold (before .dflt).dflt c)).2 ∧
    (after .parkMiller).parkMiller = (parkMillerStep (parkMillerFold (before .parkMiller).parkMiller c)).2 ∧
    (after .xorshift32).xorshift32 = (xorshift32Step (xorshift32Fold (before .xorshift32).xorshift32 c)).2 ∧
    (after .xorwow).xorwow = (xorwowStep (xorwowFold (before .xorwow).xorwow c)).2 ∧
    (after .kiss).kiss = (kissStep (kissFold (before .kiss).kiss c)).2 ∧
    (after .taus113).taus113 = (taus113Step (taus113Fold (before .taus113).taus113 c)).2 ∧
    (after .coveyou).coveyou = (coveyouStep (coveyouFold (before .coveyou).coveyou c)).2 ∧
    (after .knuthran2).knuthran2 = (knuthran2Step (knuthran2Fold (before .knuthran2).knuthran2 c)).2

/-- R115, R301: SEED_OTHER answers `InvalidSeedType` with its header word, sets the current core's mode to ambient
without a snapshot, forgets the last seed, and writes nothing else (R310); no sample is taken. That SNAP[CUR] and the
fields of LASTSEED, which have no meaning then, keep what they hold is log entry 9. -/
def Obligations.SeedOtherOnlySetsTheMode : Prop :=
  ∀ (s : State) (tag : BitVec 4) (arg : BitVec 32), 3 ≤ tag.toNat → ∃ t, exec (.seedOther tag arg) s = .next t ∧
    (∀ g, t.noseedOf g = if g = s.cur then true else s.noseedOf g) ∧
    (∀ g, t.snapvOf g = if g = s.cur then false else s.snapvOf g) ∧ t.lsKind = .none ∧
    t.lsInt = s.lsInt ∧ t.lsLen = s.lsLen ∧ t.lsStr = s.lsStr ∧ t.gen = s.gen ∧ t.snap = s.snap ∧ t.recalc = s.recalc ∧
    t.cur = s.cur ∧ t.boot = s.boot ∧ t.inst = s.inst ∧ t.cmd = s.cmd ∧ t.ent = s.ent ∧ t.entCount = s.entCount ∧
    ∃ d : Data64, d.toNat = (0x10 + tag.toNat) * 2 ^ 32 + arg.toNat ∧
      t.resp = s.resp ++ [packBeat ⟨.invalidSeedType, .none, false, true, d⟩]

/-- R84 (b): a CHAR word where a header is expected answers `IllegalCommand` and changes nothing (that it runs as an
instruction of its own is log entry 7). -/
def Obligations.CharAsHeaderIsIllegal : Prop :=
  ∀ (s : State) (ch : CharCode), ∃ d : Data64, d.toNat = 0x80 * 2 ^ 32 + ch.toNat ∧
    exec (.char ch) s = .next { s with resp := s.resp ++ [packBeat ⟨.illegalCommand, .none, false, true, d⟩] }

-- GENERATE COMMANDS (spec/40_commands.md R109, R116 to R120)

/-- R116: NEXT answers one normalised value, on every core, and changes nothing but `S[CUR]`. -/
def Obligations.NextGivesOneFloat : Prop :=
  ∀ s : State, ∃ t, exec .next s = .next t ∧
    t.resp = s.resp ++ [packBeat ⟨.ok, .float, false, true, norm s.cur (genStep s.cur s.gen).1⟩] ∧
    coreState s.cur t.gen = coreState s.cur (genStep s.cur s.gen).2 ∧
    (∀ g, g ≠ s.cur → coreState g t.gen = coreState g s.gen) ∧ { t with gen := s.gen, resp := s.resp } = s

/-- R117: NEXT_INT answers one raw value on every core but DEFAULT, and changes nothing but `S[CUR]`. -/
def Obligations.NextIntGivesOneRawWord : Prop :=
  ∀ s : State, s.cur ≠ .dflt → ∃ t, exec .nextInt s = .next t ∧
    t.resp = s.resp ++ [packBeat ⟨.ok, .int, false, true, (genStep s.cur s.gen).1.setWidth 64⟩] ∧
    coreState s.cur t.gen = coreState s.cur (genStep s.cur s.gen).2 ∧
    (∀ g, g ≠ s.cur → coreState g t.gen = coreState g s.gen) ∧ { t with gen := s.gen, resp := s.resp } = s

/-- R302, R168: on DEFAULT, NEXT_INT and RANDOM_INT answer `UnsupportedOperation` with their header word and change no
state at all. -/
def Obligations.DefaultGivesNoIntegers : Prop :=
  ∀ s : State, s.cur = .dflt →
    exec .nextInt s =
      .next { s with resp := s.resp ++ [packBeat ⟨.unsupportedOperation, .none, false, true, 0x2100000000⟩] } ∧
    ∀ imm : BitVec 32, ∃ d : Data64, d.toNat = 0x23 * 2 ^ 32 + imm.toNat ∧
      exec (.randomInt imm) s =
        .next { s with resp := s.resp ++ [packBeat ⟨.unsupportedOperation, .none, false, true, d⟩] }

/-- R109: what `book(g)` does — nothing in deterministic mode; in ambient mode it counts, and before that seeds afresh
from one sample if `RECALC[g] = RECALC_FREQ`. -/
def Obligations.BookReseedsEveryRecalcFreqValues : Prop :=
  ∀ (s : State) (g : CoreId),
    (s.noseedOf g = false → s.book g = s) ∧
    (s.noseedOf g = true → (s.recalcOf g).toNat ≠ Config.recalcFreq →
      (s.book g).recalcOf g = s.recalcOf g + 1 ∧ { s.book g with recalc := s.recalc } = s ∧
      ∀ h, h ≠ g → (s.book g).recalcOf h = s.recalcOf h) ∧
    (s.noseedOf g = true → (s.recalcOf g).toNat = Config.recalcFreq →
      (s.book g).recalcOf g = 1 ∧ coreState g (s.book g).gen = initialState g .none s.entropyWord ∧
      Sampled 1 s (s.book g) ∧ GenerateFrame g s (s.book g) ∧ (s.book g).resp = s.resp)

/-- R118: `count(n)` and `seq(n)` of the operand: 2 .. 2^31 - 1 ask for a sequence of that length, 0, 1 and every
negative `n` for one scalar. -/
def Obligations.CountOperandIsSigned : Prop :=
  ∀ imm : BitVec 32,
    (2 ≤ imm.toNat ∧ imm.toNat < 2 ^ 31 → valueCount (countOperand imm) = imm.toNat ∧ seqFlag (countOperand imm) = true) ∧
    (imm.toNat ≤ 1 ∨ 2 ^ 31 ≤ imm.toNat → valueCount (countOperand imm) = 1 ∧ seqFlag (countOperand imm) = false)

/-- R119: RANDOM answers `count(n)` normalised values, each after `book` and one step, in generation order, `LAST` on
the final one; it completes in every state and writes only `RECALC[CUR]`, `S[CUR]`, BOOT and the entropy port. -/
def Obligations.RandomGivesItsCountOfFloats : Prop :=
  ∀ (s : State) (imm : BitVec 32),
    let n := countOperand imm
    ∃ (t : State) (bs : List BeatWord), exec (.random imm) s = .next t ∧
      t = { loopState s.cur s (valueCount n) with resp := s.resp ++ bs } ∧ GenerateFrame s.cur s t ∧
      bs.length = valueCount n ∧
      ∀ (j : Nat) (h : j < bs.length),
        bs[j] = packBeat ⟨.ok, .float, seqFlag n, decide (j + 1 = valueCount n), norm s.cur (loopRaw s.cur s j)⟩

/-- R120: RANDOM_INT does the same with raw values, on every core but DEFAULT. -/
def Obligations.RandomIntGivesItsCountOfWords : Prop :=
  ∀ (s : State) (imm : BitVec 32), s.cur ≠ .dflt →
    let n := countOperand imm
    ∃ (t : State) (bs : List BeatWord), exec (.randomInt imm) s = .next t ∧
      t = { loopState s.cur s (valueCount n) with resp := s.resp ++ bs } ∧ GenerateFrame s.cur s t ∧
      bs.length = valueCount n ∧
      ∀ (j : Nat) (h : j < bs.length),
        bs[j] = packBeat ⟨.ok, .int, seqFlag n, decide (j + 1 = valueCount n), (loopRaw s.cur s j).setWidth 64⟩

/-- R116, corner cases: in deterministic mode NEXT and `RANDOM 1` are the same transition. So are NEXT_INT and
`RANDOM_INT 1`, but on DEFAULT, where each answers with its own header word (R302). -/
def Obligations.NextIsRandomOneWhenDeterministic : Prop :=
  ∀ s : State, s.noseedOf s.cur = false →
    exec .next s = exec (.random 1) s ∧ (s.cur ≠ .dflt → exec .nextInt s = exec (.randomInt 1) s)

-- REGISTRY COMMANDS (spec/40_commands.md R121, R122)

/-- R121: SELECT of another core makes it current and constructed, and seeds it with the last seed; the core that was
current keeps its state. R6: the sixteen numbers. -/
def Obligations.SelectSwitchesAndReseeds : Prop :=
  (([.dflt, .parkMiller, .xorshift32, .xorwow, .kiss, .taus113, .coveyou, .knuthran2, .r250, .gfsr4, .tt800, .mt19937,
      .dx1597, .mrg5, .swb2712, .philox] : List CoreId).map (fun g => g.idx.val) =
    [0, 1, 2, 3, 4, 5, 6, 7, 8, 9, 10, 11, 12, 13, 14, 15]) ∧
  ∀ (s : State) (gid : BitVec 8) (g : CoreId), gid.toNat = g.idx.val → g ≠ s.cur →
    ∃ t, exec (.select gid) s = .next t ∧ t.cur = g ∧ (∀ h, t.instOf h = if h = g then true else s.instOf h) ∧
      Seeded g s.lastSeed s t ∧ SameLastSeed s t ∧ t.cmd = s.cmd ∧
      t.resp = s.resp ++ [packBeat ⟨.ok, .none, false, true, 0⟩]

/-- R121, R305: SELECT of the current core, and of a number that names no core, is accepted and changes nothing. -/
def Obligations.SelectOfCurrentOrUnknownIsNoOp : Prop :=
  ∀ (s : State) (gid : BitVec 8), gid.toNat = s.cur.idx.val ∨ 16 ≤ gid.toNat →
    exec (.select gid) s = .next { s with resp := s.resp ++ [packBeat ⟨.ok, .none, false, true, 0⟩] }

/-- R122: RESTORE copies the snapshot of the current core back in deterministic mode, where it has one, and does nothing
otherwise; it writes nothing but `S[CUR]`. -/
def Obligations.RestoreCopiesTheSnapshot : Prop :=
  ∀ s : State, ∃ t, exec .restore s = .next t ∧
    coreState s.cur t.gen =
      (if s.noseedOf s.cur = false ∧ s.snapvOf s.cur = true then coreState s.cur s.snap else coreState s.cur s.gen) ∧
    (∀ g, g ≠ s.cur → coreState g t.gen = coreState g s.gen) ∧ { t with gen := s.gen, resp := s.resp } = s ∧
    t.resp = s.resp ++ [packBeat ⟨.ok, .none, false, true, 0⟩]

-- THE WHOLE MACHINE

/-- R90, R300, R304, R308, R338: every command is answered at once by one response — at least one beat, `LAST` on the
final beat only, `STATUS` the command's own, an error answered by a single beat. -/
def Obligations.EveryCommandIsAnsweredOnce : Prop :=
  ∀ (i : Instr) (s : State), ∃ (t : State) (bs : List BeatWord), exec i s = .next t ∧ t.resp = s.resp ++ bs ∧ bs ≠ [] ∧
    (statusOf i s ≠ .ok → bs.length = 1) ∧
    ∀ (j : Nat) (h : j < bs.length), bs[j].extractLsb' 68 4 = statusCode (statusOf i s) ∧
      bs[j].getLsbD 64 = decide (j + 1 = bs.length) ∧ bs[j].extractLsb' 66 2 ≠ 3

/-- R322, R119: how often each command samples the entropy port, in every state whose count is in range; never in
deterministic mode, by NEXT, NEXT_INT, RESTORE or a failed command. -/
def Obligations.EntropyIsSampledExactlyWhen : Prop :=
  ∀ (i : Instr) (s : State), (s.recalcOf s.cur).toNat ≤ Config.recalcFreq →
    ∃ t, exec i s = .next t ∧ Sampled (samplesTaken i s) s t

/-- R101, R121 (d): a command touches the core that is current after it and no other; only SELECT changes which one that
is. -/
def Obligations.OnlyTheCurrentCoreIsTouched : Prop :=
  ∀ (i : Instr) (s t : State), exec i s = .next t →
    (∀ g, g ≠ t.cur → SameCore g s t ∧ t.instOf g = s.instOf g) ∧ ((∀ gid, i ≠ .select gid) → t.cur = s.cur)

/-- R123: after a seed that was given, the whole stream of raw outputs is a function of the core and the seed alone,
whatever the state of the block was before. -/
def Obligations.SeedDeterminesTheStream : Prop :=
  ∀ (s₁ s₂ t₁ t₂ : State), s₁.cur = s₂.cur → ∀ k : Nat,
    (∀ imm, exec (.seedInt imm) s₁ = .next t₁ → exec (.seedInt imm) s₂ = .next t₂ → t₁.streamAt k = t₂.streamAt k) ∧
    (∀ cs, cs.length ≤ 256 → exec (.seedStr cs) s₁ = .next t₁ → exec (.seedStr cs) s₂ = .next t₂ →
      t₁.streamAt k = t₂.streamAt k)

/-- R122, corner cases: after an integer or a text seed and any run of generate commands, RESTORE brings the core back to
the state it had right after that seeding. -/
def Obligations.RestoreReplaysTheSeeding : Prop :=
  ∀ (s t u : State) (seed : Instr) (gs : List Instr),
    ((∃ imm, seed = .seedInt imm) ∨ (∃ cs, seed = .seedStr cs ∧ cs.length ≤ 256)) → exec seed s = .next t →
    (∀ i ∈ gs, isGenerate i = true) → runInstrs gs t = some u →
    ∃ v, exec .restore u = .next v ∧ v.cur = s.cur ∧ coreState s.cur v.gen = coreState s.cur t.gen

/-- R124: selecting another core and then the first one again, with no seed command between, puts the first core back in
the state it had right after its seeding. -/
def Obligations.ReselectReplaysTheSeeding : Prop :=
  ∀ (s t u : State) (seed : Instr) (gs : List Instr) (g : CoreId),
    ((∃ imm, seed = .seedInt imm) ∨ (∃ cs, seed = .seedStr cs ∧ cs.length ≤ 256)) → exec seed s = .next t →
    (∀ i ∈ gs, isGenerate i = true) → runInstrs gs t = some u → g ≠ s.cur →
    ∃ v, runInstrs [.select (BitVec.ofNat 8 g.idx.val), .select (BitVec.ofNat 8 s.cur.idx.val)] u = some v ∧
      v.cur = s.cur ∧ coreState s.cur v.gen = coreState s.cur t.gen

/-- R333: `SEED_INT s; SELECT g` and `SELECT g; SEED_INT s` leave core `g` current and in the same state. -/
def Obligations.SeedThenSelectIsSelectThenSeed : Prop :=
  ∀ (s : State) (imm : BitVec 32) (g : CoreId), g ≠ s.cur →
    ∃ t u, runInstrs [.seedInt imm, .select (BitVec.ofNat 8 g.idx.val)] s = some t ∧
      runInstrs [.select (BitVec.ofNat 8 g.idx.val), .seedInt imm] s = some u ∧
      t.cur = g ∧ u.cur = g ∧ coreState g t.gen = coreState g u.gen ∧ t.noseedOf g = u.noseedOf g ∧
      t.recalcOf g = u.recalcOf g ∧ t.lastSeed = u.lastSeed

/-- R114, corner cases: for every core but MT19937 and PHILOX the empty text and the integer 0 give the same generator
state; for those two they do not (R267, R287). -/
def Obligations.EmptyTextIsSeedZero : Prop :=
  ∀ (g : CoreId) (e : Word),
    (g ≠ .mt19937 → g ≠ .philox → initialState g (.str []) e = initialState g (.int 0) e) ∧
    (g = .mt19937 ∨ g = .philox → initialState g (.str []) e ≠ initialState g (.int 0) e)

/-- R36: no response ever depends on the state of a core that is not current, on BOOT, on the constructed bits, or on the
parts of `LASTSEED` that are not meaningful: two states alike in all else stay alike, response beats included. -/
def Obligations.OtherCoresAreNeverObserved : Prop :=
  ∀ s t s' : State, Alike s t → step s = .next s' → ∃ t', step t = .next t' ∧ Alike s' t'

/-- R39 and the rules it collects: every step keeps the invariants. -/
def Obligations.StepKeepsTheInvariants : Prop :=
  ∀ s t : State, Inv s → step s = .next t → Inv t

/-- The state after reset meets the invariants (R37, R39). -/
def Obligations.ResetMeetsTheInvariants : Prop := Inv State.reset

/-- R37: what reset leaves, whatever the sample `E0` is and whatever the entropy port carries next; `State.reset` is that
state for one sample. -/
def Obligations.ResetLeavesDefaultAmbient : Prop :=
  (∃ (e0 : Word) (ent : List Word) (n : Nat), State.reset = State.resetWith e0 ent n) ∧
  ∀ (e0 : Word) (ent : List Word) (n : Nat),
    let s := State.resetWith e0 ent n
    s.cur = .dflt ∧ s.lsKind = .none ∧ s.noseedOf .dflt = true ∧ s.recalcOf .dflt = 0 ∧ s.snapvOf .dflt = false ∧
    (∀ g, s.instOf g = decide (g = .dflt)) ∧ s.gen.dflt = ⟨e0, 362436069, 521288629, 88675123⟩

/-- R330, R331: the reset sequence samples the entropy port once and leaves the state of R37 with that sample, whatever
the state was before. In the middle of a command it aborts it: after the `k` beats already sent no further one is, and
nothing else of the command is left but that the port has been sampled, at most as often as the whole command would have
(`n` times, where the command has that many). The model's choices are: that the beats already sent stay sent, and how
often an aborted command has sampled, log entry 10; that every register R37 gives no value is zero, as in `resetWith`,
log entry 1. -/
def Obligations.ResetSequenceIgnoresTheStateBefore : Prop :=
  (∀ s : State,
    s.hardReset = { State.resetWith s.entropyWord s.ent.tail (s.entCount + 1) with resp := s.resp }) ∧
  ∀ (s t : State) (k n : Nat), step s = .next t →
    ∃ m, m ≤ t.entCount - s.entCount ∧ (n ≤ t.entCount - s.entCount → m = n) ∧
      s.resetDuring k n =
        { State.resetWith ((s.ent.drop m).headD (Config.entropy (s.entCount + m))) (s.ent.drop (m + 1))
            (s.entCount + m + 1) with
          resp := t.resp.take (s.resp.length + k) }

-- NORMALISATION (spec/40_commands.md R110)

/-- R110: `norm(g, raw)` is strictly nearer to `raw / M[g]` than every other finite non-negative binary64 number. (No tie
occurs: the quotient is exact for `M32`, and `M31` is odd.) -/
def Obligations.NormIsTheNearestBinary64 : Prop :=
  ∀ (g : CoreId) (raw : Word) (d : Data64), raw.toNat < modulus g → d.toNat < 0x7FF0000000000000 → d ≠ norm g raw →
    |binary64Value (norm g raw) - (raw.toNat : ℚ) / (modulus g : ℚ)| <
      |binary64Value d - (raw.toNat : ℚ) / (modulus g : ℚ)|

/-- R111, R110, R91: a raw output of a core whose registers are legal is below `M[g]`, and at least 1 for PARKMILLER; the
normalised output of a raw word below `M[g]` is +0.0 for 0 and else lies in [2^-32, 1): sign 0, normal, below 1.0.
R6: `M[g]` is M31 for PARKMILLER, KNUTHRAN2, DX1597 and MRG5, and M32 for the others. -/
def Obligations.OutputsLieInTheirRanges : Prop :=
  (∀ g : CoreId, modulus g =
    if g = .parkMiller ∨ g = .knuthran2 ∨ g = .dx1597 ∨ g = .mrg5 then 2147483647 else 4294967296) ∧
  (∀ (g : CoreId) (G : Gens), legalCore g G →
    (genStep g G).1.toNat < modulus g ∧ (g = .parkMiller → 1 ≤ (genStep g G).1.toNat)) ∧
  (∀ (g : CoreId) (raw : Word), raw.toNat < modulus g →
    (raw = 0 → norm g raw = 0) ∧
    (raw ≠ 0 → 0x3DF0000000000000 ≤ (norm g raw).toNat ∧ (norm g raw).toNat < 0x3FF0000000000000))

-- THE MODULAR-MULTIPLICATION UNIT (spec/41_modmul.md)

/-- R145: the digit method computes the exact modular product, for every word operand and every modulus of R140. -/
def Obligations.DigitMethodIsExact : Prop :=
  ∀ a b m : Nat, a < 2 ^ 32 → b < 2 ^ 32 → 2 ^ 31 - 1 ≤ m → m ≤ 2 ^ 32 → modmulDigits a b m = a * b % m

/-- R146: the ten-stage pipeline ends with the same product, and with nothing left of the operand. -/
def Obligations.PipelineEndsWithTheProduct : Prop :=
  ∀ a b m : Nat, a < 2 ^ 32 → b < 2 ^ 32 → 2 ^ 31 - 1 ≤ m → m ≤ 2 ^ 32 →
    (pipeEnd a b m).acc = modmul a b m ∧ (pipeEnd a b m).rem = 0

/-- R147: with the row bases carried along, a variable multiplicand gives the same product, and `base_k` is
`(b · 10^k) mod m`. -/
def Obligations.RowsOnTheFlyGiveTheProduct : Prop :=
  ∀ a b m : Nat, a < 2 ^ 32 → b < 2 ^ 32 → 2 ^ 31 - 1 ≤ m → m ≤ 2 ^ 32 →
    (∀ k, rowBase b m k = b * 10 ^ k % m) ∧ modmulRows a b m = modmul a b m

/-- R149: `addmod` of two residues is their sum modulo `m`, a residue. -/
def Obligations.AddmodIsTheResidueOfTheSum : Prop :=
  ∀ a b m : Nat, 2 ^ 31 - 1 ≤ m → m ≤ 2 ^ 32 → a < m → b < m → addmod a b m = (a + b) % m ∧ addmod a b m < m

-- THE BUFFERS (spec/20_memory.md R61, R73)

/-- R61, R25: after `push(g, v)`, `v` is at lag 1 and every other word is one lag older; the pointer goes from `K-1` to 0
and else up by one. -/
def Obligations.PushMakesEveryWordOneLagOlder : Prop :=
  ∀ (K : Nat) (b : Buffer K) (v : Word),
    lag (push b v) 1 = v ∧ (∀ j, 1 ≤ j → j < K → lag (push b v) (j + 1) = lag b j) ∧
    ((push b v).p.val = if b.p.val + 1 = K then 0 else b.p.val + 1)

/-- R221, R73: `fill(g)` writes the `i`-th draw of BOOT, reduced, at `BUF[i]`, which is lag `K - i`; the pointer is 0.
R107, R162, R164, R166, R260: each buffer core but MT19937 is filled from BOOT seeded with the integer or the text — the
words modulo M31 on DX1597 and MRG5, as drawn on the others, and SWB2712's borrow cleared — and BOOT goes on from the last
draw; BOOT folds a character and then steps. -/
def Obligations.FillWritesTheDrawsInOrder : Prop :=
  (∀ (K : Nat) (hK : 0 < K) (red : Word → Word) (boot : Xs128), (fillBuffer hK red boot).1.p.val = 0 ∧
    (fillBuffer hK red boot).2 = (fun st => (xs128Step st).2)^[K] boot ∧
    ∀ (i : Nat) (hi : i < K),
      (fillBuffer hK red boot).1.buf[i] = red (xs128Step ((fun st => (xs128Step st).2)^[i] boot)).1 ∧
      lag (fillBuffer hK red boot).1 (K - i) = (fillBuffer hK red boot).1.buf[i]) ∧
  (∀ w : Word, bootSeedInt w = ⟨w, 362436069, 521288629, 88675123⟩) ∧ bootSeedStr [] = bootSeedInt 0 ∧
  (∀ (cs : List CharCode) (c : CharCode),
    bootSeedStr (cs ++ [c]) = (xs128Step (xs128Fold (bootSeedStr cs) c)).2) ∧
  ∀ (w : Word) (cs : List CharCode) (G : Gens) (boot : Xs128),
    let drawn : Word → Word := fun v => v
    let residue : Word → Word := fun v => BitVec.ofNat 32 (v.toNat % 2147483647)
    let r250 : Xs128 → Gens × Xs128 := fun b =>
      let f := fillBuffer (K := 250) (by decide) drawn b
      ({ G with r250 := f.1 }, f.2)
    let gfsr4 : Xs128 → Gens × Xs128 := fun b =>
      let f := fillBuffer (K := 9689) (by decide) drawn b
      ({ G with gfsr4 := f.1 }, f.2)
    let tt800 : Xs128 → Gens × Xs128 := fun b =>
      let f := fillBuffer (K := 25) (by decide) drawn b
      ({ G with tt800 := f.1 }, f.2)
    let dx1597 : Xs128 → Gens × Xs128 := fun b =>
      let f := fillBuffer (K := 1597) (by decide) residue b
      ({ G with dx1597 := f.1 }, f.2)
    let mrg5 : Xs128 → Gens × Xs128 := fun b =>
      let f := fillBuffer (K := 5) (by decide) residue b
      ({ G with mrg5 := f.1 }, f.2)
    let swb2712 : Xs128 → Gens × Xs128 := fun b =>
      let f := fillBuffer (K := 27) (by decide) drawn b
      ({ G with swb2712 := ⟨f.1, false⟩ }, f.2)
    (genInitInt .r250 w G boot = r250 (bootSeedInt w) ∧ genInitStr .r250 cs G boot = r250 (bootSeedStr cs)) ∧
    (genInitInt .gfsr4 w G boot = gfsr4 (bootSeedInt w) ∧ genInitStr .gfsr4 cs G boot = gfsr4 (bootSeedStr cs)) ∧
    (genInitInt .tt800 w G boot = tt800 (bootSeedInt w) ∧ genInitStr .tt800 cs G boot = tt800 (bootSeedStr cs)) ∧
    (genInitInt .dx1597 w G boot = dx1597 (bootSeedInt w) ∧ genInitStr .dx1597 cs G boot = dx1597 (bootSeedStr cs)) ∧
    (genInitInt .mrg5 w G boot = mrg5 (bootSeedInt w) ∧ genInitStr .mrg5 cs G boot = mrg5 (bootSeedStr cs)) ∧
    (genInitInt .swb2712 w G boot = swb2712 (bootSeedInt w) ∧
      genInitStr .swb2712 cs G boot = swb2712 (bootSeedStr cs))

-- THE CORES. The statements about a core begin with its arms of `init_int` and `step` (R102).

/-- R161 to R164, R167, R184, R185, R187: one step of DEFAULT and of XORWOW, register by register, and what their integer
seeding and their fold of a character write. -/
def Obligations.DefaultAndXorwowRegisters : Prop :=
  (∀ (w : Word) (G : Gens) (boot : Xs128),
    genInitInt .dflt w G boot = ({ G with dflt := ⟨w, 362436069, 521288629, 88675123⟩ }, boot) ∧
    genInitInt .xorwow w G boot =
      ({ G with xorwow := ⟨w, 362436069, 521288629, 88675123, 5783321, 6615241⟩ }, boot)) ∧
  (∀ (st : Xs128) (sx : Xorwow) (c : CharCode),
    xs128Fold st c = { st with x := st.x ^^^ c.setWidth 32 } ∧
    xorwowFold sx c = { sx with x := sx.x ^^^ c.setWidth 32 }) ∧
  ∀ G : Gens,
    (let st := G.dflt
     let t := st.x ^^^ (st.x <<< 11)
     let w := st.w ^^^ (st.w >>> 19) ^^^ t ^^^ (t >>> 8)
     (genStep .dflt G).1 = w ∧ (genStep .dflt G).2 = { G with dflt := ⟨st.y, st.z, st.w, w⟩ }) ∧
    (let st := G.xorwow
     let t := st.x ^^^ (st.x >>> 2)
     let v := (st.v ^^^ (st.v <<< 4)) ^^^ (t ^^^ (t <<< 1))
     let d := st.d + 362437
     (genStep .xorwow G).1 = d + v ∧ (genStep .xorwow G).2 = { G with xorwow := ⟨st.y, st.z, st.w, st.v, v, d⟩ })

/-- R176 to R179: PARKMILLER's `init_int` is the residue of the seed and its `fold` the residue of the sum, 0 replaced by
1; its step is the product by 16807 modulo 2^31 - 1; and the residue stays in 1 .. M31 - 1 after each of the three. -/
def Obligations.ParkMillerStaysInRange : Prop :=
  (∀ (w : Word) (G : Gens) (boot : Xs128),
    genInitInt .parkMiller w G boot = ({ G with parkMiller := parkMillerInitInt w }, boot) ∧
    genStep .parkMiller G = ((parkMillerStep G.parkMiller).1, { G with parkMiller := (parkMillerStep G.parkMiller).2 })) ∧
  (∀ s : Word,
    (parkMillerInitInt s).x.toNat = (if s.toNat % 2147483647 = 0 then 1 else s.toNat % 2147483647) ∧
    1 ≤ (parkMillerInitInt s).x.toNat ∧ (parkMillerInitInt s).x.toNat ≤ Config.m31 - 1) ∧
  (∀ st : ParkMiller, 1 ≤ st.x.toNat → st.x.toNat ≤ Config.m31 - 1 →
    (parkMillerStep st).1.toNat = 16807 * st.x.toNat % 2147483647 ∧
    (parkMillerStep st).2.x.toNat = (parkMillerStep st).1.toNat ∧
    1 ≤ (parkMillerStep st).2.x.toNat ∧ (parkMillerStep st).2.x.toNat ≤ Config.m31 - 1 ∧
    ∀ c : CharCode,
      (parkMillerFold st c).x.toNat =
        (if (st.x.toNat + c.toNat) % 2147483647 = 0 then 1 else (st.x.toNat + c.toNat) % 2147483647) ∧
      1 ≤ (parkMillerFold st c).x.toNat ∧ (parkMillerFold st c).x.toNat ≤ Config.m31 - 1)

/-- R180 to R183: XORSHIFT32's `init_int` and `fold` replace 0 by 1, its step is the shift triple 13, 17, 5, which is
injective, and the word is never 0 after any of the three. -/
def Obligations.Xorshift32IsNeverZero : Prop :=
  (∀ (w : Word) (G : Gens) (boot : Xs128),
    genInitInt .xorshift32 w G boot = ({ G with xorshift32 := xorshift32InitInt w }, boot) ∧
    genStep .xorshift32 G = ((xorshift32Step G.xorshift32).1, { G with xorshift32 := (xorshift32Step G.xorshift32).2 })) ∧
  (∀ s : Word, (xorshift32InitInt s).x = (if s = 0 then 1 else s) ∧ (xorshift32InitInt s).x ≠ 0) ∧
  (∀ (st : Xorshift32) (c : CharCode),
    (xorshift32Fold st c).x = (if st.x ^^^ c.setWidth 32 = 0 then 1 else st.x ^^^ c.setWidth 32) ∧
    (xorshift32Fold st c).x ≠ 0) ∧
  (∀ st : Xorshift32,
    let a := st.x ^^^ (st.x <<< 13)
    let b := a ^^^ (a >>> 17)
    (xorshift32Step st).2.x = b ^^^ (b <<< 5)) ∧
  (∀ st : Xorshift32, st.x ≠ 0 → (xorshift32Step st).2.x ≠ 0 ∧ (xorshift32Step st).1 = (xorshift32Step st).2.x) ∧
  Function.Injective xorshiftTriple

/-- R188 to R191: KISS is seeded in the Weyl counter and folds characters into `y`; it keeps `y ≠ 0`; its
new carry and 31-bit word are the two parts of `z + w + c`, of which no bit is lost. -/
def Obligations.KissKeepsItsCarryExact : Prop :=
  (∀ (w : Word) (G : Gens) (boot : Xs128),
    genInitInt .kiss w G boot = ({ G with kiss := kissInitInt w }, boot) ∧
    genStep .kiss G = ((kissStep G.kiss).1, { G with kiss := (kissStep G.kiss).2 })) ∧
  (∀ s : Word, kissInitInt s = ⟨s, 362436069, 21288629, 14921776, false⟩ ∧ (kissInitInt s).y ≠ 0) ∧
  (∀ (st : Kiss) (c : CharCode), (kissFold st c).y ≠ 0 ∧
    kissFold st c = { st with y := if st.y ^^^ c.setWidth 32 = 0 then 362436069 else st.y ^^^ c.setWidth 32 }) ∧
  (∀ st : Kiss, (kissStep st).2.y = (xorshift32Step ⟨st.y⟩).1 ∧ (st.y ≠ 0 → (kissStep st).2.y ≠ 0) ∧
    (kissStep st).2.z = st.w ∧
    (kissStep st).2.w.toNat + 2 ^ 31 * (kissStep st).2.c.toNat = st.z.toNat + st.w.toNat + st.c.toNat ∧
    (kissStep st).2.x = st.x + 545925293 ∧
    (kissStep st).1 = (kissStep st).2.x + (kissStep st).2.y + (kissStep st).2.w.setWidth 32)

/-- R192 to R195: TAUS113's four components are the chain of the congruential map with a floor under each, so they clear
their floors before the ten warm-up steps, for every seed; the seed 0 counts as 1; one step, component by
component; and the fold of a character. -/
def Obligations.Taus113ComponentsClearTheirFloors : Prop :=
  (∀ (w : Word) (G : Gens) (boot : Xs128),
    genInitInt .taus113 w G boot = ({ G with taus113 := taus113InitInt w }, boot) ∧
    genStep .taus113 G = ((taus113Step G.taus113).1, { G with taus113 := (taus113Step G.taus113).2 })) ∧
  (∀ s : Word,
    let lcg := fun n : Word => BitVec.ofNat 32 (69069 * n.toNat % 2 ^ 32)
    let raised := fun (floor : Nat) (z : Word) => if z.toNat < floor then z + BitVec.ofNat 32 floor else z
    let z1 := raised 2 (lcg (if s = 0 then 1 else s))
    let z2 := raised 8 (lcg z1)
    let z3 := raised 16 (lcg z2)
    let z4 := raised 128 (lcg z3)
    taus113Chain s = ⟨z1, z2, z3, z4⟩) ∧
  (∀ s : Word, 2 ≤ (taus113Chain s).z1.toNat ∧ 8 ≤ (taus113Chain s).z2.toNat ∧ 16 ≤ (taus113Chain s).z3.toNat ∧
    128 ≤ (taus113Chain s).z4.toNat ∧ taus113InitInt s = (fun st => (taus113Step st).2)^[10] (taus113Chain s)) ∧
  taus113Chain 0 = taus113Chain 1 ∧
  (∀ st : Taus113,
    let z1 := ((st.z1 &&& 0xFFFFFFFE) <<< 18) ^^^ (((st.z1 <<< 6) ^^^ st.z1) >>> 13)
    let z2 := ((st.z2 &&& 0xFFFFFFF8) <<< 2) ^^^ (((st.z2 <<< 2) ^^^ st.z2) >>> 27)
    let z3 := ((st.z3 &&& 0xFFFFFFF0) <<< 7) ^^^ (((st.z3 <<< 13) ^^^ st.z3) >>> 21)
    let z4 := ((st.z4 &&& 0xFFFFFF80) <<< 13) ^^^ (((st.z4 <<< 3) ^^^ st.z4) >>> 12)
    taus113Step st = (z1 ^^^ z2 ^^^ z3 ^^^ z4, ⟨z1, z2, z3, z4⟩)) ∧
  ∀ (st : Taus113) (c : CharCode),
    let z := st.z1 ^^^ c.setWidth 32
    taus113Fold st c = { st with z1 := if z.toNat < 2 then z + 2 else z }

/-- R198 to R201: COVEYOU's `init_int` replaces the two low bits of the seed by 10, its `fold` leaves them alone, and the
word is 2 modulo 4 after `init_int`, `fold` and every step; the step is `x (x + 1)` modulo
2^32. -/
def Obligations.CoveyouStaysTwoModFour : Prop :=
  (∀ (w : Word) (G : Gens) (boot : Xs128),
    genInitInt .coveyou w G boot = ({ G with coveyou := coveyouInitInt w }, boot) ∧
    genStep .coveyou G = ((coveyouStep G.coveyou).1, { G with coveyou := (coveyouStep G.coveyou).2 })) ∧
  (∀ s : Word, (coveyouInitInt s).x.toNat = s.toNat / 4 * 4 + 2 ∧ (coveyouInitInt s).x.toNat % 4 = 2) ∧
  (∀ st : Coveyou, st.x.toNat % 4 = 2 →
    (coveyouStep st).2.x.toNat % 4 = 2 ∧ (coveyouStep st).1 = (coveyouStep st).2.x ∧
    (coveyouStep st).2.x.toNat = st.x.toNat * (st.x.toNat + 1) % 2 ^ 32 ∧
    ∀ c : CharCode, (coveyouFold st c).x = st.x ^^^ (c.setWidth 32 <<< 2) ∧ (coveyouFold st c).x.toNat % 4 = 2)

/-- R202, R204, R205: KNUTHRAN2's `init_int` puts the residue of the seed, 0 replaced by 1, in both registers; its `fold`
adds the character to the newest; the two residues stay below M31 and are never both 0. -/
def Obligations.Knuthran2IsNeverBothZero : Prop :=
  (∀ (w : Word) (G : Gens) (boot : Xs128),
    genInitInt .knuthran2 w G boot = ({ G with knuthran2 := knuthran2InitInt w }, boot) ∧
    genStep .knuthran2 G = ((knuthran2Step G.knuthran2).1, { G with knuthran2 := (knuthran2Step G.knuthran2).2 })) ∧
  let ok := fun st : Knuthran2 => st.x0.toNat < Config.m31 ∧ st.x1.toNat < Config.m31 ∧ ¬(st.x0 = 0 ∧ st.x1 = 0)
  (∀ s : Word, ok (knuthran2InitInt s) ∧ (knuthran2InitInt s).x0 = (knuthran2InitInt s).x1 ∧
    (knuthran2InitInt s).x1.toNat = (if s.toNat % 2147483647 = 0 then 1 else s.toNat % 2147483647)) ∧
  (∀ st : Knuthran2, ok st → ok (knuthran2Step st).2 ∧ ∀ c : CharCode, ok (knuthran2Fold st c) ∧
    (knuthran2Fold st c).x0 = st.x0 ∧
    (knuthran2Fold st c).x1.toNat =
      (if (st.x1.toNat + c.toNat) % 2147483647 = 0 ∧ st.x0 = 0 then 1 else (st.x1.toNat + c.toNat) % 2147483647))

/-- R203, R235, R240: the three linear recurrences modulo 2^31 - 1 in their published form. KNUTHRAN2's subtraction is
the integer one; DX1597's words are residues and its multiplier lies in (0, M31) and is otherwise free (log entry 3). -/
def Obligations.LinearRecurrencesModuloM31 : Prop :=
  (∀ G : Gens, genStep .knuthran2 G = ((knuthran2Step G.knuthran2).1, { G with knuthran2 := (knuthran2Step G.knuthran2).2 })) ∧
  (∀ G : Gens, genStep .mrg5 G = ((mrg5Step G.mrg5).1, { G with mrg5 := (mrg5Step G.mrg5).2 })) ∧
  (∀ G : Gens, genStep .dx1597 G = ((dx1597Step G.dx1597).1, { G with dx1597 := (dx1597Step G.dx1597).2 })) ∧
  (∀ st : Knuthran2, ((knuthran2Step st).1.toNat : Int) =
      (271828183 * (st.x1.toNat : Int) - 314159269 * (st.x0.toNat : Int)) % 2147483647 ∧
    (knuthran2Step st).2.x0 = st.x1 ∧ (knuthran2Step st).2.x1.toNat = (knuthran2Step st).1.toNat) ∧
  (∀ b : Buffer 5, (mrg5Step b).1.toNat = (107374182 * (lag b 1).toNat + 104480 * (lag b 5).toNat) % 2147483647 ∧
    (mrg5Step b).2 = push b (mrg5Step b).1) ∧
  (0 < Config.dxB ∧ Config.dxB < Config.m31 ∧
    ∀ b : Buffer 1597, (∀ i : Fin 1597, b.buf[i].toNat < Config.m31) →
      (dx1597Step b).1.toNat =
        Config.dxB * ((lag b 1).toNat + (lag b 533).toNat + (lag b 1065).toNat + (lag b 1597).toNat) % 2147483647 ∧
      (dx1597Step b).2 = push b (dx1597Step b).1)

/-- R222, R225: the xor cores read the words at the indices the rules give, write the new word over the oldest, leave
every other word alone, and answer the new word. -/
def Obligations.XorLagCoresStep : Prop :=
  (∀ G : Gens, genStep .r250 G = ((r250Step G.r250).1, { G with r250 := (r250Step G.r250).2 })) ∧
  (∀ G : Gens, genStep .gfsr4 G = ((gfsr4Step G.gfsr4).1, { G with gfsr4 := (gfsr4Step G.gfsr4).2 })) ∧
  (∀ b : Buffer 250,
    let v := b.buf[(b.p.val + 147) % 250]'(Nat.mod_lt _ (by decide)) ^^^ b.buf[b.p]
    (r250Step b).1 = v ∧ (r250Step b).2.buf[b.p] = v ∧ (r250Step b).2.p.val = (b.p.val + 1) % 250 ∧
    ∀ i : Fin 250, i ≠ b.p → (r250Step b).2.buf[i] = b.buf[i]) ∧
  (∀ b : Buffer 9689,
    let v := b.buf[(b.p.val + 9218) % 9689]'(Nat.mod_lt _ (by decide)) ^^^
      b.buf[(b.p.val + 8103) % 9689]'(Nat.mod_lt _ (by decide)) ^^^
      b.buf[(b.p.val + 2701) % 9689]'(Nat.mod_lt _ (by decide)) ^^^ b.buf[b.p]
    (gfsr4Step b).1 = v ∧ (gfsr4Step b).2.buf[b.p] = v ∧ (gfsr4Step b).2.p.val = (b.p.val + 1) % 9689 ∧
    ∀ i : Fin 9689, i ≠ b.p → (gfsr4Step b).2.buf[i] = b.buf[i])

/-- R230, R231: SWB2712's difference and borrow are the two parts of `a - b - c`; the word goes over the oldest one. -/
def Obligations.Swb2712BorrowIsExact : Prop :=
  (∀ G : Gens, genStep .swb2712 G = ((swb2712Step G.swb2712).1, { G with swb2712 := (swb2712Step G.swb2712).2 })) ∧
  ∀ st : Swb2712,
    let a := st.b.buf[(st.b.p.val + 15) % 27]'(Nat.mod_lt _ (by decide))
    let b := st.b.buf[st.b.p]
    (swb2712Step st).1.toNat + b.toNat + st.c.toNat = a.toNat + 2 ^ 32 * (swb2712Step st).2.c.toNat ∧
    (swb2712Step st).2.b.buf[st.b.p] = (swb2712Step st).1 ∧ (swb2712Step st).2.b.p.val = (st.b.p.val + 1) % 27 ∧
    ∀ i : Fin 27, i ≠ st.b.p → (swb2712Step st).2.b.buf[i] = st.b.buf[i]

/-- R261, R268: the twisted cores store the untempered word over the oldest one and answer the tempered one. -/
def Obligations.TwistedCoresStep : Prop :=
  (∀ G : Gens, genStep .tt800 G = ((tt800Step G.tt800).1, { G with tt800 := (tt800Step G.tt800).2 })) ∧
  (∀ G : Gens, genStep .mt19937 G = ((mt19937Step G.mt19937).1, { G with mt19937 := (mt19937Step G.mt19937).2 })) ∧
  (∀ b : Buffer 25,
    let o := b.buf[b.p]
    let v := b.buf[(b.p.val + 7) % 25]'(Nat.mod_lt _ (by decide)) ^^^ (o >>> 1) ^^^
      (if o.toNat % 2 = 1 then 0x8EBFD028 else 0)
    let y := v ^^^ ((v <<< 7) &&& 0x2B5B2500)
    let y' := y ^^^ ((y <<< 15) &&& 0xDB8B0000)
    (tt800Step b).2.buf[b.p] = v ∧ (tt800Step b).1 = y' ^^^ (y' >>> 16) ∧ (tt800Step b).2.p.val = (b.p.val + 1) % 25 ∧
    ∀ i : Fin 25, i ≠ b.p → (tt800Step b).2.buf[i] = b.buf[i]) ∧
  (∀ b : Buffer 624,
    let n := b.buf[(b.p.val + 1) % 624]'(Nat.mod_lt _ (by decide))
    let y := (b.buf[b.p] &&& 0x80000000) ||| (n &&& 0x7FFFFFFF)
    let v := b.buf[(b.p.val + 397) % 624]'(Nat.mod_lt _ (by decide)) ^^^ (y >>> 1) ^^^
      (if n.toNat % 2 = 1 then 0x9908B0DF else 0)
    let t := v ^^^ (v >>> 11)
    let t' := t ^^^ ((t <<< 7) &&& 0x9D2C5680)
    let t'' := t' ^^^ ((t' <<< 15) &&& 0xEFC60000)
    (mt19937Step b).2.buf[b.p] = v ∧ (mt19937Step b).1 = t'' ^^^ (t'' >>> 18) ∧
    (mt19937Step b).2.p.val = (b.p.val + 1) % 624 ∧
    ∀ i : Fin 624, i ≠ b.p → (mt19937Step b).2.buf[i] = b.buf[i])

/-- R266: MT19937's integer seeding, word by word; R267: a text seeds BOOT, whose next draw is the integer. -/
def Obligations.Mt19937SeedingRecurrence : Prop :=
  (∀ (w : Word) (cs : List CharCode) (G : Gens) (boot : Xs128),
    let draw := xs128Step (bootSeedStr cs)
    genInitInt .mt19937 w G boot = ({ G with mt19937 := mt19937InitInt w }, boot) ∧
    genInitStr .mt19937 cs G boot = ({ G with mt19937 := mt19937InitInt draw.1 }, draw.2)) ∧
  ∀ s : Word, (mt19937InitInt s).p.val = 0 ∧ (mt19937InitInt s).buf[0] = s ∧
    ∀ (i : Nat) (h : i + 1 < 624),
      let p := (mt19937InitInt s).buf[i]
      ((mt19937InitInt s).buf[i + 1]).toNat = ((p ^^^ (p >>> 30)).toNat * 1812433253 + (i + 1)) % 2 ^ 32

/-- R280, R283 to R285: from `IDX = 4` the next four raw outputs of PHILOX are the four words of one block, in order; the
counter goes up by one modulo 2^128 in the first of the four steps, and no step changes the key. -/
def Obligations.PhiloxGivesItsBlockInOrder : Prop :=
  (∀ a b c d : Word, ctrNumber #v[a, b, c, d] =
    a.toNat + 2 ^ 32 * b.toNat + 2 ^ 64 * c.toNat + 2 ^ 96 * d.toNat) ∧
  ∀ G : Gens, G.philox.idx = 4 →
    (∀ (k : Nat) (h : k < 4), rawAt .philox k G = (philoxBlock G.philox.ctr G.philox.key)[k] ∧
      (gensAfter .philox (k + 1) G).philox.idx.val = k + 1 ∧
      (gensAfter .philox (k + 1) G).philox.key = G.philox.key ∧
      ctrNumber (gensAfter .philox (k + 1) G).philox.ctr = (ctrNumber G.philox.ctr + 1) % 2 ^ 128)

/-- R286, R287: the two seedings of PHILOX; R281: the multiplier's product is exact; R282: one round; R283: the three
known-answer blocks of Philox-4x32-10. -/
def Obligations.PhiloxSeedingAndKnownAnswers : Prop :=
  (∀ (w : Word) (cs : List CharCode) (G : Gens) (boot : Xs128),
    genInitInt .philox w G boot = ({ G with philox := philoxInitInt w }, boot) ∧
    genInitStr .philox cs G boot = ({ G with philox := (philoxInitStr cs).1 }, (philoxInitStr cs).2)) ∧
  (∀ a b : Word, (mulhilo a b).1.toNat * 2 ^ 32 + (mulhilo a b).2.toNat = a.toNat * b.toNat) ∧
  (∀ (x : Vector Word 4) (k : Vector Word 2),
    let p0 := mulhilo 0xD2511F53 x[0]
    let p1 := mulhilo 0xCD9E8D57 x[2]
    philoxRound x k = #v[p1.1 ^^^ x[1] ^^^ k[0], p1.2, p0.1 ^^^ x[3] ^^^ k[1], p0.2]) ∧
  (∀ s : Word, philoxInitInt s = ⟨#v[s, 0], #v[0, 0, 0, 0], #v[0, 0, 0, 0], 4⟩) ∧
  (∀ cs : List CharCode,
    let first := xs128Step (bootSeedStr cs)
    let second := xs128Step first.2
    philoxInitStr cs = (⟨#v[first.1, second.1], #v[0, 0, 0, 0], #v[0, 0, 0, 0], 4⟩, second.2)) ∧
  philoxBlock #v[0, 0, 0, 0] #v[0, 0] = #v[0x6627E8D5, 0xE169C58D, 0xBC57AC4C, 0x9B00DBD8] ∧
  philoxBlock #v[0xFFFFFFFF, 0xFFFFFFFF, 0xFFFFFFFF, 0xFFFFFFFF] #v[0xFFFFFFFF, 0xFFFFFFFF] =
    #v[0x408F276D, 0x41C83B0E, 0xA20BC7C6, 0x6D5451FD] ∧
  philoxBlock #v[0x243F6A88, 0x85A308D3, 0x13198A2E, 0x03707344] #v[0xA4093822, 0x299F31D0] =
    #v[0xD16CFE09, 0x94FDCCEB, 0x5001E420, 0x24126EA1] ∧
  mulhilo 0xFFFFFFFF 0xD2511F53 = (0xD2511F52, 0x2DAEE0AD)
end

