-- ==== Sys2Proof/Laws/State.lean ====
section
/-! SUPPORT. One lemma for each field of `State` under each update of the model, and for each per-core register read
after each update: so that no later proof unfolds a record update. -/

namespace Sys2Proof.Machine

variable (s : State)

section setNoseed
variable (g : CoreId) (v : Bool)

@[simp] theorem setNoseed_cur : (s.setNoseed g v).cur = s.cur := rfl
@[simp] theorem setNoseed_lsKind : (s.setNoseed g v).lsKind = s.lsKind := rfl
@[simp] theorem setNoseed_lsInt : (s.setNoseed g v).lsInt = s.lsInt := rfl
@[simp] theorem setNoseed_lsLen : (s.setNoseed g v).lsLen = s.lsLen := rfl
@[simp] theorem setNoseed_lsStr : (s.setNoseed g v).lsStr = s.lsStr := rfl
@[simp] theorem setNoseed_recalc : (s.setNoseed g v).recalc = s.recalc := rfl
@[simp] theorem setNoseed_snapv : (s.setNoseed g v).snapv = s.snapv := rfl
@[simp] theorem setNoseed_inst : (s.setNoseed g v).inst = s.inst := rfl
@[simp] theorem setNoseed_gen : (s.setNoseed g v).gen = s.gen := rfl
@[simp] theorem setNoseed_snap : (s.setNoseed g v).snap = s.snap := rfl
@[simp] theorem setNoseed_boot : (s.setNoseed g v).boot = s.boot := rfl
@[simp] theorem setNoseed_cmd : (s.setNoseed g v).cmd = s.cmd := rfl
@[simp] theorem setNoseed_ent : (s.setNoseed g v).ent = s.ent := rfl
@[simp] theorem setNoseed_entCount : (s.setNoseed g v).entCount = s.entCount := rfl
@[simp] theorem setNoseed_resp : (s.setNoseed g v).resp = s.resp := rfl
@[simp] theorem setNoseed_recalcOf (k : CoreId) : (s.setNoseed g v).recalcOf k = s.recalcOf k := rfl
@[simp] theorem setNoseed_snapvOf (k : CoreId) : (s.setNoseed g v).snapvOf k = s.snapvOf k := rfl
@[simp] theorem setNoseed_instOf (k : CoreId) : (s.setNoseed g v).instOf k = s.instOf k := rfl

end setNoseed

section setRecalc
variable (g : CoreId) (v : BitVec 17)

@[simp] theorem setRecalc_cur : (s.setRecalc g v).cur = s.cur := rfl
@[simp] theorem setRecalc_lsKind : (s.setRecalc g v).lsKind = s.lsKind := rfl
@[simp] theorem setRecalc_lsInt : (s.setRecalc g v).lsInt = s.lsInt := rfl
@[simp] theorem setRecalc_lsLen : (s.setRecalc g v).lsLen = s.lsLen := rfl
@[simp] theorem setRecalc_lsStr : (s.setRecalc g v).lsStr = s.lsStr := rfl
@[simp] theorem setRecalc_noseed : (s.setRecalc g v).noseed = s.noseed := rfl
@[simp] theorem setRecalc_snapv : (s.setRecalc g v).snapv = s.snapv := rfl
@[simp] theorem setRecalc_inst : (s.setRecalc g v).inst = s.inst := rfl
@[simp] theorem setRecalc_gen : (s.setRecalc g v).gen = s.gen := rfl
@[simp] theorem setRecalc_snap : (s.setRecalc g v).snap = s.snap := rfl
@[simp] theorem setRecalc_boot : (s.setRecalc g v).boot = s.boot := rfl
@[simp] theorem setRecalc_cmd : (s.setRecalc g v).cmd = s.cmd := rfl
@[simp] theorem setRecalc_ent : (s.setRecalc g v).ent = s.ent := rfl
@[simp] theorem setRecalc_entCount : (s.setRecalc g v).entCount = s.entCount := rfl
@[simp] theorem setRecalc_resp : (s.setRecalc g v).resp = s.resp := rfl
@[simp] theorem setRecalc_noseedOf (k : CoreId) : (s.setRecalc g v).noseedOf k = s.noseedOf k := rfl
@[simp] theorem setRecalc_snapvOf (k : CoreId) : (s.setRecalc g v).snapvOf k = s.snapvOf k := rfl
@[simp] theorem setRecalc_instOf (k : CoreId) : (s.setRecalc g v).instOf k = s.instOf k := rfl

end setRecalc

section setSnapv
variable (g : CoreId) (v : Bool)

@[simp] theorem setSnapv_cur : (s.setSnapv g v).cur = s.cur := rfl
@[simp] theorem setSnapv_lsKind : (s.setSnapv g v).lsKind = s.lsKind := rfl
@[simp] theorem setSnapv_lsInt : (s.setSnapv g v).lsInt = s.lsInt := rfl
@[simp] theorem setSnapv_lsLen : (s.setSnapv g v).lsLen = s.lsLen := rfl
@[simp] theorem setSnapv_lsStr : (s.setSnapv g v).lsStr = s.lsStr := rfl
@[simp] theorem setSnapv_noseed : (s.setSnapv g v).noseed = s.noseed := rfl
@[simp] theorem setSnapv_recalc : (s.setSnapv g v).recalc = s.recalc := rfl
@[simp] theorem setSnapv_inst : (s.setSnapv g v).inst = s.inst := rfl
@[simp] theorem setSnapv_gen : (s.setSnapv g v).gen = s.gen := rfl
@[simp] theorem setSnapv_snap : (s.setSnapv g v).snap = s.snap := rfl
@[simp] theorem setSnapv_boot : (s.setSnapv g v).boot = s.boot := rfl
@[simp] theorem setSnapv_cmd : (s.setSnapv g v).cmd = s.cmd := rfl
@[simp] theorem setSnapv_ent : (s.setSnapv g v).ent = s.ent := rfl
@[simp] theorem setSnapv_entCount : (s.setSnapv g v).entCount = s.entCount := rfl
@[simp] theorem setSnapv_resp : (s.setSnapv g v).resp = s.resp := rfl
@[simp] theorem setSnapv_noseedOf (k : CoreId) : (s.setSnapv g v).noseedOf k = s.noseedOf k := rfl
@[simp] theorem setSnapv_recalcOf (k : CoreId) : (s.setSnapv g v).recalcOf k = s.recalcOf k := rfl
@[simp] theorem setSnapv_instOf (k : CoreId) : (s.setSnapv g v).instOf k = s.instOf k := rfl

end setSnapv

section setInst
variable (g : CoreId) (v : Bool)

@[simp] theorem setInst_cur : (s.setInst g v).cur = s.cur := rfl
@[simp] theorem setInst_lsKind : (s.setInst g v).lsKind = s.lsKind := rfl
@[simp] theorem setInst_lsInt : (s.setInst g v).lsInt = s.lsInt := rfl
@[simp] theorem setInst_lsLen : (s.setInst g v).lsLen = s.lsLen := rfl
@[simp] theorem setInst_lsStr : (s.setInst g v).lsStr = s.lsStr := rfl
@[simp] theorem setInst_noseed : (s.setInst g v).noseed = s.noseed := rfl
@[simp] theorem setInst_recalc : (s.setInst g v).recalc = s.recalc := rfl
@[simp] theorem setInst_snapv : (s.setInst g v).snapv = s.snapv := rfl
@[simp] theorem setInst_gen : (s.setInst g v).gen = s.gen := rfl
@[simp] theorem setInst_snap : (s.setInst g v).snap = s.snap := rfl
@[simp] theorem setInst_boot : (s.setInst g v).boot = s.boot := rfl
@[simp] theorem setInst_cmd : (s.setInst g v).cmd = s.cmd := rfl
@[simp] theorem setInst_ent : (s.setInst g v).ent = s.ent := rfl
@[simp] theorem setInst_entCount : (s.setInst g v).entCount = s.entCount := rfl
@[simp] theorem setInst_resp : (s.setInst g v).resp = s.resp := rfl
@[simp] theorem setInst_noseedOf (k : CoreId) : (s.setInst g v).noseedOf k = s.noseedOf k := rfl
@[simp] theorem setInst_recalcOf (k : CoreId) : (s.setInst g v).recalcOf k = s.recalcOf k := rfl
@[simp] theorem setInst_snapvOf (k : CoreId) : (s.setInst g v).snapvOf k = s.snapvOf k := rfl

end setInst

section takeSample

@[simp] theorem takeSample_cur : (s.takeSample).cur = s.cur := rfl
@[simp] theorem takeSample_lsKind : (s.takeSample).lsKind = s.lsKind := rfl
@[simp] theorem takeSample_lsInt : (s.takeSample).lsInt = s.lsInt := rfl
@[simp] theorem takeSample_lsLen : (s.takeSample).lsLen = s.lsLen := rfl
@[simp] theorem takeSample_lsStr : (s.takeSample).lsStr = s.lsStr := rfl
@[simp] theorem takeSample_noseed : (s.takeSample).noseed = s.noseed := rfl
@[simp] theorem takeSample_recalc : (s.takeSample).recalc = s.recalc := rfl
@[simp] theorem takeSample_snapv : (s.takeSample).snapv = s.snapv := rfl
@[simp] theorem takeSample_inst : (s.takeSample).inst = s.inst := rfl
@[simp] theorem takeSample_gen : (s.takeSample).gen = s.gen := rfl
@[simp] theorem takeSample_snap : (s.takeSample).snap = s.snap := rfl
@[simp] theorem takeSample_boot : (s.takeSample).boot = s.boot := rfl
@[simp] theorem takeSample_cmd : (s.takeSample).cmd = s.cmd := rfl
@[simp] theorem takeSample_ent : (s.takeSample).ent = s.ent.tail := rfl
@[simp] theorem takeSample_entCount : (s.takeSample).entCount = s.entCount + 1 := rfl
@[simp] theorem takeSample_resp : (s.takeSample).resp = s.resp := rfl
@[simp] theorem takeSample_noseedOf (k : CoreId) : (s.takeSample).noseedOf k = s.noseedOf k := rfl
@[simp] theorem takeSample_recalcOf (k : CoreId) : (s.takeSample).recalcOf k = s.recalcOf k := rfl
@[simp] theorem takeSample_snapvOf (k : CoreId) : (s.takeSample).snapvOf k = s.snapvOf k := rfl
@[simp] theorem takeSample_instOf (k : CoreId) : (s.takeSample).instOf k = s.instOf k := rfl

end takeSample

section send
variable (bs : List BeatWord)

@[simp] theorem send_cur : (s.send bs).cur = s.cur := rfl
@[simp] theorem send_lsKind : (s.send bs).lsKind = s.lsKind := rfl
@[simp] theorem send_lsInt : (s.send bs).lsInt = s.lsInt := rfl
@[simp] theorem send_lsLen : (s.send bs).lsLen = s.lsLen := rfl
@[simp] theorem send_lsStr : (s.send bs).lsStr = s.lsStr := rfl
@[simp] theorem send_noseed : (s.send bs).noseed = s.noseed := rfl
@[simp] theorem send_recalc : (s.send bs).recalc = s.recalc := rfl
@[simp] theorem send_snapv : (s.send bs).snapv = s.snapv := rfl
@[simp] theorem send_inst : (s.send bs).inst = s.inst := rfl
@[simp] theorem send_gen : (s.send bs).gen = s.gen := rfl
@[simp] theorem send_snap : (s.send bs).snap = s.snap := rfl
@[simp] theorem send_boot : (s.send bs).boot = s.boot := rfl
@[simp] theorem send_cmd : (s.send bs).cmd = s.cmd := rfl
@[simp] theorem send_ent : (s.send bs).ent = s.ent := rfl
@[simp] theorem send_entCount : (s.send bs).entCount = s.entCount := rfl
@[simp] theorem send_resp : (s.send bs).resp = s.resp ++ bs := rfl
@[simp] theorem send_noseedOf (k : CoreId) : (s.send bs).noseedOf k = s.noseedOf k := rfl
@[simp] theorem send_recalcOf (k : CoreId) : (s.send bs).recalcOf k = s.recalcOf k := rfl
@[simp] theorem send_snapvOf (k : CoreId) : (s.send bs).snapvOf k = s.snapvOf k := rfl
@[simp] theorem send_instOf (k : CoreId) : (s.send bs).instOf k = s.instOf k := rfl

end send

section initInt
variable (g : CoreId) (w : Word)

@[simp] theorem initInt_cur : (s.initInt g w).cur = s.cur := rfl
@[simp] theorem initInt_lsKind : (s.initInt g w).lsKind = s.lsKind := rfl
@[simp] theorem initInt_lsInt : (s.initInt g w).lsInt = s.lsInt := rfl
@[simp] theorem initInt_lsLen : (s.initInt g w).lsLen = s.lsLen := rfl
@[simp] theorem initInt_lsStr : (s.initInt g w).lsStr = s.lsStr := rfl
@[simp] theorem initInt_noseed : (s.initInt g w).noseed = s.noseed := rfl
@[simp] theorem initInt_recalc : (s.initInt g w).recalc = s.recalc := rfl
@[simp] theorem initInt_snapv : (s.initInt g w).snapv = s.snapv := rfl
@[simp] theorem initInt_inst : (s.initInt g w).inst = s.inst := rfl
@[simp] theorem initInt_gen : (s.initInt g w).gen = (genInitInt g w s.gen s.boot).1 := rfl
@[simp] theorem initInt_snap : (s.initInt g w).snap = s.snap := rfl
@[simp] theorem initInt_boot : (s.initInt g w).boot = (genInitInt g w s.gen s.boot).2 := rfl
@[simp] theorem initInt_cmd : (s.initInt g w).cmd = s.cmd := rfl
@[simp] theorem initInt_ent : (s.initInt g w).ent = s.ent := rfl
@[simp] theorem initInt_entCount : (s.initInt g w).entCount = s.entCount := rfl
@[simp] theorem initInt_resp : (s.initInt g w).resp = s.resp := rfl
@[simp] theorem initInt_noseedOf (k : CoreId) : (s.initInt g w).noseedOf k = s.noseedOf k := rfl
@[simp] theorem initInt_recalcOf (k : CoreId) : (s.initInt g w).recalcOf k = s.recalcOf k := rfl
@[simp] theorem initInt_snapvOf (k : CoreId) : (s.initInt g w).snapvOf k = s.snapvOf k := rfl
@[simp] theorem initInt_instOf (k : CoreId) : (s.initInt g w).instOf k = s.instOf k := rfl

end initInt

section initStr
variable (g : CoreId) (cs : List CharCode)

@[simp] theorem initStr_cur : (s.initStr g cs).cur = s.cur := rfl
@[simp] theorem initStr_lsKind : (s.initStr g cs).lsKind = s.lsKind := rfl
@[simp] theorem initStr_lsInt : (s.initStr g cs).lsInt = s.lsInt := rfl
@[simp] theorem initStr_lsLen : (s.initStr g cs).lsLen = s.lsLen := rfl
@[simp] theorem initStr_lsStr : (s.initStr g cs).lsStr = s.lsStr := rfl
@[simp] theorem initStr_noseed : (s.initStr g cs).noseed = s.noseed := rfl
@[simp] theorem initStr_recalc : (s.initStr g cs).recalc = s.recalc := rfl
@[simp] theorem initStr_snapv : (s.initStr g cs).snapv = s.snapv := rfl
@[simp] theorem initStr_inst : (s.initStr g cs).inst = s.inst := rfl
@[simp] theorem initStr_gen : (s.initStr g cs).gen = (genInitStr g cs s.gen s.boot).1 := rfl
@[simp] theorem initStr_snap : (s.initStr g cs).snap = s.snap := rfl
@[simp] theorem initStr_boot : (s.initStr g cs).boot = (genInitStr g cs s.gen s.boot).2 := rfl
@[simp] theorem initStr_cmd : (s.initStr g cs).cmd = s.cmd := rfl
@[simp] theorem initStr_ent : (s.initStr g cs).ent = s.ent := rfl
@[simp] theorem initStr_entCount : (s.initStr g cs).entCount = s.entCount := rfl
@[simp] theorem initStr_resp : (s.initStr g cs).resp = s.resp := rfl
@[simp] theorem initStr_noseedOf (k : CoreId) : (s.initStr g cs).noseedOf k = s.noseedOf k := rfl
@[simp] theorem initStr_recalcOf (k : CoreId) : (s.initStr g cs).recalcOf k = s.recalcOf k := rfl
@[simp] theorem initStr_snapvOf (k : CoreId) : (s.initStr g cs).snapvOf k = s.snapvOf k := rfl
@[simp] theorem initStr_instOf (k : CoreId) : (s.initStr g cs).instOf k = s.instOf k := rfl

end initStr

section takeSnapshot
variable (g : CoreId)

@[simp] theorem takeSnapshot_cur : (s.takeSnapshot g).cur = s.cur := rfl
@[simp] theorem takeSnapshot_lsKind : (s.takeSnapshot g).lsKind = s.lsKind := rfl
@[simp] theorem takeSnapshot_lsInt : (s.takeSnapshot g).lsInt = s.lsInt := rfl
@[simp] theorem takeSnapshot_lsLen : (s.takeSnapshot g).lsLen = s.lsLen := rfl
@[simp] theorem takeSnapshot_lsStr : (s.takeSnapshot g).lsStr = s.lsStr := rfl
@[simp] theorem takeSnapshot_noseed : (s.takeSnapshot g).noseed = s.noseed := rfl
@[simp] theorem takeSnapshot_recalc : (s.takeSnapshot g).recalc = s.recalc := rfl
@[simp] theorem takeSnapshot_snapv : (s.takeSnapshot g).snapv = s.snapv := rfl
@[simp] theorem takeSnapshot_inst : (s.takeSnapshot g).inst = s.inst := rfl
@[simp] theorem takeSnapshot_gen : (s.takeSnapshot g).gen = s.gen := rfl
@[simp] theorem takeSnapshot_snap : (s.takeSnapshot g).snap = copyCore g s.gen s.snap := rfl
@[simp] theorem takeSnapshot_boot : (s.takeSnapshot g).boot = s.boot := rfl
@[simp] theorem takeSnapshot_cmd : (s.takeSnapshot g).cmd = s.cmd := rfl
@[simp] theorem takeSnapshot_ent : (s.takeSnapshot g).ent = s.ent := rfl
@[simp] theorem takeSnapshot_entCount : (s.takeSnapshot g).entCount = s.entCount := rfl
@[simp] theorem takeSnapshot_resp : (s.takeSnapshot g).resp = s.resp := rfl
@[simp] theorem takeSnapshot_noseedOf (k : CoreId) : (s.takeSnapshot g).noseedOf k = s.noseedOf k := rfl
@[simp] theorem takeSnapshot_recalcOf (k : CoreId) : (s.takeSnapshot g).recalcOf k = s.recalcOf k := rfl
@[simp] theorem takeSnapshot_snapvOf (k : CoreId) : (s.takeSnapshot g).snapvOf k = s.snapvOf k := rfl
@[simp] theorem takeSnapshot_instOf (k : CoreId) : (s.takeSnapshot g).instOf k = s.instOf k := rfl

end takeSnapshot

section restoreSnapshot
variable (g : CoreId)

@[simp] theorem restoreSnapshot_cur : (s.restoreSnapshot g).cur = s.cur := rfl
@[simp] theorem restoreSnapshot_lsKind : (s.restoreSnapshot g).lsKind = s.lsKind := rfl
@[simp] theorem restoreSnapshot_lsInt : (s.restoreSnapshot g).lsInt = s.lsInt := rfl
@[simp] theorem restoreSnapshot_lsLen : (s.restoreSnapshot g).lsLen = s.lsLen := rfl
@[simp] theorem restoreSnapshot_lsStr : (s.restoreSnapshot g).lsStr = s.lsStr := rfl
@[simp] theorem restoreSnapshot_noseed : (s.restoreSnapshot g).noseed = s.noseed := rfl
@[simp] theorem restoreSnapshot_recalc : (s.restoreSnapshot g).recalc = s.recalc := rfl
@[simp] theorem restoreSnapshot_snapv : (s.restoreSnapshot g).snapv = s.snapv := rfl
@[simp] theorem restoreSnapshot_inst : (s.restoreSnapshot g).inst = s.inst := rfl
@[simp] theorem restoreSnapshot_gen : (s.restoreSnapshot g).gen = copyCore g s.snap s.gen := rfl
@[simp] theorem restoreSnapshot_snap : (s.restoreSnapshot g).snap = s.snap := rfl
@[simp] theorem restoreSnapshot_boot : (s.restoreSnapshot g).boot = s.boot := rfl
@[simp] theorem restoreSnapshot_cmd : (s.restoreSnapshot g).cmd = s.cmd := rfl
@[simp] theorem restoreSnapshot_ent : (s.restoreSnapshot g).ent = s.ent := rfl
@[simp] theorem restoreSnapshot_entCount : (s.restoreSnapshot g).entCount = s.entCount := rfl
@[simp] theorem restoreSnapshot_resp : (s.restoreSnapshot g).resp = s.resp := rfl
@[simp] theorem restoreSnapshot_noseedOf (k : CoreId) : (s.restoreSnapshot g).noseedOf k = s.noseedOf k := rfl
@[simp] theorem restoreSnapshot_recalcOf (k : CoreId) : (s.restoreSnapshot g).recalcOf k = s.recalcOf k := rfl
@[simp] theorem restoreSnapshot_snapvOf (k : CoreId) : (s.restoreSnapshot g).snapvOf k = s.snapvOf k := rfl
@[simp] theorem restoreSnapshot_instOf (k : CoreId) : (s.restoreSnapshot g).instOf k = s.instOf k := rfl

end restoreSnapshot

section stepCore
variable (g : CoreId)

@[simp] theorem stepCore_cur : (s.stepCore g).cur = s.cur := rfl
@[simp] theorem stepCore_lsKind : (s.stepCore g).lsKind = s.lsKind := rfl
@[simp] theorem stepCore_lsInt : (s.stepCore g).lsInt = s.lsInt := rfl
@[simp] theorem stepCore_lsLen : (s.stepCore g).lsLen = s.lsLen := rfl
@[simp] theorem stepCore_lsStr : (s.stepCore g).lsStr = s.lsStr := rfl
@[simp] theorem stepCore_noseed : (s.stepCore g).noseed = s.noseed := rfl
@[simp] theorem stepCore_recalc : (s.stepCore g).recalc = s.recalc := rfl
@[simp] theorem stepCore_snapv : (s.stepCore g).snapv = s.snapv := rfl
@[simp] theorem stepCore_inst : (s.stepCore g).inst = s.inst := rfl
@[simp] theorem stepCore_gen : (s.stepCore g).gen = (genStep g s.gen).2 := rfl
@[simp] theorem stepCore_snap : (s.stepCore g).snap = s.snap := rfl
@[simp] theorem stepCore_boot : (s.stepCore g).boot = s.boot := rfl
@[simp] theorem stepCore_cmd : (s.stepCore g).cmd = s.cmd := rfl
@[simp] theorem stepCore_ent : (s.stepCore g).ent = s.ent := rfl
@[simp] theorem stepCore_entCount : (s.stepCore g).entCount = s.entCount := rfl
@[simp] theorem stepCore_resp : (s.stepCore g).resp = s.resp := rfl
@[simp] theorem stepCore_noseedOf (k : CoreId) : (s.stepCore g).noseedOf k = s.noseedOf k := rfl
@[simp] theorem stepCore_recalcOf (k : CoreId) : (s.stepCore g).recalcOf k = s.recalcOf k := rfl
@[simp] theorem stepCore_snapvOf (k : CoreId) : (s.stepCore g).snapvOf k = s.snapvOf k := rfl
@[simp] theorem stepCore_instOf (k : CoreId) : (s.stepCore g).instOf k = s.instOf k := rfl

end stepCore

section forgetSeed

@[simp] theorem forgetSeed_cur : (s.forgetSeed).cur = s.cur := rfl
@[simp] theorem forgetSeed_lsKind : (s.forgetSeed).lsKind = .none := rfl
@[simp] theorem forgetSeed_lsInt : (s.forgetSeed).lsInt = s.lsInt := rfl
@[simp] theorem forgetSeed_lsLen : (s.forgetSeed).lsLen = s.lsLen := rfl
@[simp] theorem forgetSeed_lsStr : (s.forgetSeed).lsStr = s.lsStr := rfl
@[simp] theorem forgetSeed_noseed : (s.forgetSeed).noseed = s.noseed := rfl
@[simp] theorem forgetSeed_recalc : (s.forgetSeed).recalc = s.recalc := rfl
@[simp] theorem forgetSeed_snapv : (s.forgetSeed).snapv = s.snapv := rfl
@[simp] theorem forgetSeed_inst : (s.forgetSeed).inst = s.inst := rfl
@[simp] theorem forgetSeed_gen : (s.forgetSeed).gen = s.gen := rfl
@[simp] theorem forgetSeed_snap : (s.forgetSeed).snap = s.snap := rfl
@[simp] theorem forgetSeed_boot : (s.forgetSeed).boot = s.boot := rfl
@[simp] theorem forgetSeed_cmd : (s.forgetSeed).cmd = s.cmd := rfl
@[simp] theorem forgetSeed_ent : (s.forgetSeed).ent = s.ent := rfl
@[simp] theorem forgetSeed_entCount : (s.forgetSeed).entCount = s.entCount := rfl
@[simp] theorem forgetSeed_resp : (s.forgetSeed).resp = s.resp := rfl
@[simp] theorem forgetSeed_noseedOf (k : CoreId) : (s.forgetSeed).noseedOf k = s.noseedOf k := rfl
@[simp] theorem forgetSeed_recalcOf (k : CoreId) : (s.forgetSeed).recalcOf k = s.recalcOf k := rfl
@[simp] theorem forgetSeed_snapvOf (k : CoreId) : (s.forgetSeed).snapvOf k = s.snapvOf k := rfl
@[simp] theorem forgetSeed_instOf (k : CoreId) : (s.forgetSeed).instOf k = s.instOf k := rfl

end forgetSeed

section keepSeedInt
variable (w : Word)

@[simp] theorem keepSeedInt_cur : (s.keepSeedInt w).cur = s.cur := rfl
@[simp] theorem keepSeedInt_lsKind : (s.keepSeedInt w).lsKind = .int := rfl
@[simp] theorem keepSeedInt_lsInt : (s.keepSeedInt w).lsInt = w := rfl
@[simp] theorem keepSeedInt_lsLen : (s.keepSeedInt w).lsLen = s.lsLen := rfl
@[simp] theorem keepSeedInt_lsStr : (s.keepSeedInt w).lsStr = s.lsStr := rfl
@[simp] theorem keepSeedInt_noseed : (s.keepSeedInt w).noseed = s.noseed := rfl
@[simp] theorem keepSeedInt_recalc : (s.keepSeedInt w).recalc = s.recalc := rfl
@[simp] theorem keepSeedInt_snapv : (s.keepSeedInt w).snapv = s.snapv := rfl
@[simp] theorem keepSeedInt_inst : (s.keepSeedInt w).inst = s.inst := rfl
@[simp] theorem keepSeedInt_gen : (s.keepSeedInt w).gen = s.gen := rfl
@[simp] theorem keepSeedInt_snap : (s.keepSeedInt w).snap = s.snap := rfl
@[simp] theorem keepSeedInt_boot : (s.keepSeedInt w).boot = s.boot := rfl
@[simp] theorem keepSeedInt_cmd : (s.keepSeedInt w).cmd = s.cmd := rfl
@[simp] theorem keepSeedInt_ent : (s.keepSeedInt w).ent = s.ent := rfl
@[simp] theorem keepSeedInt_entCount : (s.keepSeedInt w).entCount = s.entCount := rfl
@[simp] theorem keepSeedInt_resp : (s.keepSeedInt w).resp = s.resp := rfl
@[simp] theorem keepSeedInt_noseedOf (k : CoreId) : (s.keepSeedInt w).noseedOf k = s.noseedOf k := rfl
@[simp] theorem keepSeedInt_recalcOf (k : CoreId) : (s.keepSeedInt w).recalcOf k = s.recalcOf k := rfl
@[simp] theorem keepSeedInt_snapvOf (k : CoreId) : (s.keepSeedInt w).snapvOf k = s.snapvOf k := rfl
@[simp] theorem keepSeedInt_instOf (k : CoreId) : (s.keepSeedInt w).instOf k = s.instOf k := rfl

end keepSeedInt

section keepSeedStr
variable (cs : List CharCode) (h : cs.length ≤ Config.maxSeedLen)

@[simp] theorem keepSeedStr_cur : (s.keepSeedStr cs h).cur = s.cur := rfl
@[simp] theorem keepSeedStr_lsKind : (s.keepSeedStr cs h).lsKind = .str := rfl
@[simp] theorem keepSeedStr_lsInt : (s.keepSeedStr cs h).lsInt = s.lsInt := rfl
@[simp] theorem keepSeedStr_lsLen : (s.keepSeedStr cs h).lsLen = ⟨cs.length, Nat.lt_succ_of_le h⟩ := rfl
@[simp] theorem keepSeedStr_lsStr : (s.keepSeedStr cs h).lsStr = writeText cs s.lsStr := rfl
@[simp] theorem keepSeedStr_noseed : (s.keepSeedStr cs h).noseed = s.noseed := rfl
@[simp] theorem keepSeedStr_recalc : (s.keepSeedStr cs h).recalc = s.recalc := rfl
@[simp] theorem keepSeedStr_snapv : (s.keepSeedStr cs h).snapv = s.snapv := rfl
@[simp] theorem keepSeedStr_inst : (s.keepSeedStr cs h).inst = s.inst := rfl
@[simp] theorem keepSeedStr_gen : (s.keepSeedStr cs h).gen = s.gen := rfl
@[simp] theorem keepSeedStr_snap : (s.keepSeedStr cs h).snap = s.snap := rfl
@[simp] theorem keepSeedStr_boot : (s.keepSeedStr cs h).boot = s.boot := rfl
@[simp] theorem keepSeedStr_cmd : (s.keepSeedStr cs h).cmd = s.cmd := rfl
@[simp] theorem keepSeedStr_ent : (s.keepSeedStr cs h).ent = s.ent := rfl
@[simp] theorem keepSeedStr_entCount : (s.keepSeedStr cs h).entCount = s.entCount := rfl
@[simp] theorem keepSeedStr_resp : (s.keepSeedStr cs h).resp = s.resp := rfl
@[simp] theorem keepSeedStr_noseedOf (k : CoreId) : (s.keepSeedStr cs h).noseedOf k = s.noseedOf k := rfl
@[simp] theorem keepSeedStr_recalcOf (k : CoreId) : (s.keepSeedStr cs h).recalcOf k = s.recalcOf k := rfl
@[simp] theorem keepSeedStr_snapvOf (k : CoreId) : (s.keepSeedStr cs h).snapvOf k = s.snapvOf k := rfl
@[simp] theorem keepSeedStr_instOf (k : CoreId) : (s.keepSeedStr cs h).instOf k = s.instOf k := rfl

end keepSeedStr

-- Setting and reading one core's register.

theorem idx_injective {g h : CoreId} (e : g.idx = h.idx) : g = h := by
  cases g <;> cases h <;> first | rfl | (exact absurd e (by decide))

@[simp] theorem idx_val_eq_iff {g h : CoreId} : g.idx.val = h.idx.val ↔ g = h :=
  ⟨fun e => idx_injective (Fin.ext e), fun e => e ▸ rfl⟩

@[simp] theorem setNoseed_noseedOf (g h : CoreId) (v : Bool) :
    (s.setNoseed g v).noseedOf h = if g = h then v else s.noseedOf h := by
  simp [State.setNoseed, State.noseedOf, Vector.getElem_set]

@[simp] theorem setRecalc_recalcOf (g h : CoreId) (v : BitVec 17) :
    (s.setRecalc g v).recalcOf h = if g = h then v else s.recalcOf h := by
  simp [State.setRecalc, State.recalcOf, Vector.getElem_set]

@[simp] theorem setSnapv_snapvOf (g h : CoreId) (v : Bool) :
    (s.setSnapv g v).snapvOf h = if g = h then v else s.snapvOf h := by
  simp [State.setSnapv, State.snapvOf, Vector.getElem_set]

@[simp] theorem setInst_instOf (g h : CoreId) (v : Bool) :
    (s.setInst g v).instOf h = if g = h then v else s.instOf h := by
  simp [State.setInst, State.instOf, Vector.getElem_set]

end Sys2Proof.Machine
end

