-- ==== Sys2Proof/Laws/Ops.lean ====
section
/-! SUPPORT. What each shared operation of Machine/Ops.lean can do: copies of one core's state, the circular buffers, the
text of the last seed, the response beats and the core numbers. -/

namespace Sys2Proof.Machine

-- One core's state (copyCore, coreState).

@[simp] theorem coreState_copyCore_self (g : CoreId) (src dst : Gens) :
    coreState g (copyCore g src dst) = coreState g src := by
  cases g <;> rfl

theorem coreState_copyCore_other {g h : CoreId} (ne : h ≠ g) (src dst : Gens) :
    coreState h (copyCore g src dst) = coreState h dst := by
  cases g <;> cases h <;> first | exact absurd rfl ne | rfl

/-- The legality of a core is a property of its own state. -/
theorem legalCore_congr {g : CoreId} {G H : Gens} (e : coreState g G = coreState g H) :
    legalCore g G ↔ legalCore g H := by
  cases g <;> simp only [coreState, CoreState.parkMiller.injEq, CoreState.xorshift32.injEq, CoreState.kiss.injEq,
    CoreState.coveyou.injEq, CoreState.knuthran2.injEq, CoreState.dx1597.injEq, CoreState.mrg5.injEq] at e <;>
    simp_all [legalCore]

/-- A copied core is legal where its source is. -/
theorem legalCore_copyCore {g : CoreId} {src dst : Gens} (k : CoreId) (hs : legalCore g src)
    (hd : legalCore k dst) : legalCore k (copyCore g src dst) := by
  rcases Classical.em (k = g) with rfl | ne
  · exact (legalCore_congr (coreState_copyCore_self _ _ _)).mpr hs
  · exact (legalCore_congr (coreState_copyCore_other ne _ _)).mpr hd

-- Circular buffers (spec/20_memory.md R61).

theorem lag_eq {K : Nat} (b : Buffer K) (j : Nat) (h : (b.p.val + K - j) % K < K) :
    lag b j = b.buf[(b.p.val + K - j) % K] := rfl

@[simp] theorem push_p {K : Nat} (b : Buffer K) (v : Word) : (push b v).p.val = (b.p.val + 1) % K := rfl

@[simp] theorem push_buf {K : Nat} (b : Buffer K) (v : Word) : (push b v).buf = b.buf.set b.p v := rfl

theorem wrap_back (K p j : Nat) (hp : p < K) (hj1 : 1 ≤ j) (hj : j ≤ K) :
    (p + K - j) % K = if j ≤ p then p - j else p + K - j := by
  split
  · next h => rw [show p + K - j = (p - j) + K from by omega, Nat.add_mod_right, Nat.mod_eq_of_lt (by omega)]
  · next h => exact Nat.mod_eq_of_lt (by omega)

theorem wrap_next (K p : Nat) (hp : p < K) : (p + 1) % K = if p + 1 = K then 0 else p + 1 := by
  split
  · next h => rw [h, Nat.mod_self]
  · next h => exact Nat.mod_eq_of_lt (by omega)

/-- The word just pushed is the newest: lag 1 (R61). -/
theorem lag_push_one {K : Nat} (b : Buffer K) (v : Word) : lag (push b v) 1 = v := by
  have hK := b.p.isLt
  have e : ((b.p.val + 1) % K + K - 1) % K = b.p.val := by
    rw [wrap_next K b.p.val hK]
    split
    · next h => rw [wrap_back K 0 1 (by omega) (by omega) (by omega)]; simp; omega
    · next h => rw [wrap_back K _ 1 (by omega) (by omega) (by omega)]; simp
  simp [lag, memRead, wrapIndex, push_p, push_buf, e]

/-- Every other word is one step older than before, and the oldest is gone (R61). -/
theorem lag_push_succ {K : Nat} (b : Buffer K) (v : Word) (j : Nat) (h1 : 1 ≤ j) (hj : j < K) :
    lag (push b v) (j + 1) = lag b j := by
  have hK := b.p.isLt
  have e : ((b.p.val + 1) % K + K - (j + 1)) % K = (b.p.val + K - j) % K := by
    rw [wrap_next K b.p.val hK, wrap_back K b.p.val j hK h1 (by omega)]
    split
    · next h => rw [wrap_back K 0 (j + 1) (by omega) (by omega) (by omega)]; simp; split <;> omega
    · next h => rw [wrap_back K _ (j + 1) (by omega) (by omega) (by omega)]; split <;> split <;> omega
  have ne : b.p.val ≠ (b.p.val + K - j) % K := by
    rw [wrap_back K b.p.val j hK h1 (by omega)]; split <;> omega
  simp only [lag, memRead, wrapIndex, push_p, push_buf]
  simp only [Fin.getElem_fin, e]
  exact Vector.getElem_set_ne _ _ ne

-- The text of the last seed (R28, R114).

theorem overlay_take {α : Type} (xs old : List α) (h : xs.length ≤ old.length) :
    (overlay xs old).take xs.length = xs := by
  fun_induction overlay xs old <;> simp_all

/-- `LS_STR[i]` after a text has been written over it: the new character below its length, else the old one (R114). -/
theorem overlay_get {α : Type} (xs old : List α) (i : Nat) (h : i < old.length) :
    (overlay xs old)[i]? = some (xs.getD i old[i]) := by
  fun_induction overlay xs old generalizing i with
  | case1 old => simp
  | case2 => simp at h
  | case3 x xs y old ih =>
    cases i with
    | zero => simp
    | succ i => simpa using ih i (by simpa using h)

/-- A text written to `LS_STR` is read back whole (R114, R121). -/
theorem lastText_keepSeedStr (s : State) (cs : List CharCode) (h : cs.length ≤ Config.maxSeedLen) :
    (s.keepSeedStr cs h).lastText = cs := by
  have := overlay_take cs s.lsStr.toList (by simpa using h)
  simpa [State.lastText, writeText, Vector.toList] using this

@[simp] theorem lastSeed_keepSeedStr (s : State) (cs : List CharCode) (h : cs.length ≤ Config.maxSeedLen) :
    (s.keepSeedStr cs h).lastSeed = .str cs := by
  have := lastText_keepSeedStr s cs h
  simp [State.lastSeed, this]

@[simp] theorem lastSeed_keepSeedInt (s : State) (w : Word) : (s.keepSeedInt w).lastSeed = .int w := rfl

@[simp] theorem lastSeed_forgetSeed (s : State) : s.forgetSeed.lastSeed = .none := rfl

/-- `LASTSEED` is absent exactly when `LS_KIND = NONE` (R28). -/
theorem lastSeed_eq_none (s : State) : s.lastSeed = .none ↔ s.lsKind = .none := by
  unfold State.lastSeed; split <;> simp_all

theorem lastSeed_congr {s t : State} (h1 : t.lsKind = s.lsKind) (h2 : t.lsInt = s.lsInt) (h3 : t.lsLen = s.lsLen)
    (h4 : t.lsStr = s.lsStr) : t.lastSeed = s.lastSeed := by
  simp only [State.lastSeed, State.lastText, h1, h2, h3, h4]

@[simp] theorem send_lastSeed (s : State) (bs : List BeatWord) : (s.send bs).lastSeed = s.lastSeed := rfl

-- Response beats (spec/30_encoding.md R90).

/-- The `LAST` bit of a beat (R90). -/
theorem packBeat_last (b : Beat) : (packBeat b).getLsbD 64 = b.last := by
  unfold packBeat
  rw [BitVec.getLsbD_append, BitVec.getLsbD_append]
  simp

@[simp] theorem valueBeats_length (k : Kind) (q : Bool) (ds : List Data64) :
    (valueBeats k q ds).length = ds.length := by
  fun_induction valueBeats k q ds <;> simp_all

/-- Beat number `j` of a response carries value `j`, and `LAST` on the final one only (R90). -/
theorem valueBeats_get (k : Kind) (q : Bool) (ds : List Data64) (j : Nat) (h : j < ds.length) :
    (valueBeats k q ds)[j]'(by simpa using h) = valueBeat k q (decide (j + 1 = ds.length)) ds[j] := by
  induction ds generalizing j with
  | nil => simp at h
  | cons d ds ih =>
    cases ds with
    | nil => have : j = 0 := by simpa using h
             subst this; simp [valueBeats]
    | cons e es =>
      cases j with
      | zero => simp [valueBeats]
      | succ j => simpa [valueBeats] using ih j (by simpa using h)

/-- Raising an error: one beat, and nothing else (R304, R309). -/
theorem raiseError_eq (e : Status) (hdr : CmdWord) (s : State) :
    raiseError e hdr s = .next (s.send [errorBeat e hdr]) := rfl

theorem answerNothing_eq (s : State) : answerNothing s = .next (s.send [noValueBeat]) := rfl

-- Core numbers (spec/00_scope.md R6, spec/30_encoding.md R82).

theorem allCores_get (g : CoreId) : allCores[g.idx.val]? = some g := by cases g <;> rfl

/-- `gid` names core `g` exactly when it is its `GID` (R82). -/
theorem coreOfGid_eq_some (gid : BitVec 8) (g : CoreId) : coreOfGid gid = some g ↔ gid.toNat = g.idx.val := by
  constructor
  · intro h
    have hl : gid.toNat < 16 := by
      have := (List.getElem?_eq_some_iff.mp h).1
      simpa [allCores] using this
    unfold coreOfGid at h
    revert h
    generalize gid.toNat = n at *
    intro h
    interval_cases n <;> simp [allCores] at h <;> subst h <;> rfl
  · intro h; unfold coreOfGid; rw [h]; exact allCores_get g

/-- `gid` names no core exactly when it is 16 or more (R82). -/
theorem coreOfGid_eq_none (gid : BitVec 8) : coreOfGid gid = none ↔ 16 ≤ gid.toNat := by
  simp [coreOfGid, allCores]

/-- The number a host writes for core `g` names it (R82, R87). -/
theorem coreOfGid_ofIdx (g : CoreId) : coreOfGid (BitVec.ofNat 8 g.idx.val) = some g := by cases g <;> rfl

end Sys2Proof.Machine
end

