-- ==== Sys2Proof/Laws/Contract.lean ====
section
/-! SUPPORT. What the contract of Machine/Contract.lean can do: `init_int`, `init_str` and `step` touch one core only and
depend on it alone (spec/40_commands.md R102, R123); `seed_apply`, `book` and the generate loop field by field. -/

namespace Sys2Proof.Machine

-- step(g) (R102)

/-- `genStep` changes core `g` alone. -/
theorem genStep_copy (g : CoreId) (G : Gens) : (genStep g G).2 = copyCore g (genStep g G).2 G := by
  cases g <;> simp only [genStep, copyCore]

/-- A step of core `g` leaves every other core alone. -/
theorem coreState_genStep_other {g h : CoreId} (ne : h ≠ g) (G : Gens) :
    coreState h (genStep g G).2 = coreState h G := by
  rw [genStep_copy]; exact coreState_copyCore_other ne ..

/-- The raw output and the next state of core `g` depend on its state alone (R123). -/
theorem genStep_congr {g : CoreId} {G H : Gens} (e : coreState g G = coreState g H) :
    (genStep g G).1 = (genStep g H).1 ∧ coreState g (genStep g G).2 = coreState g (genStep g H).2 := by
  cases g <;> simp only [coreState, CoreState.xs128.injEq, CoreState.parkMiller.injEq, CoreState.xorshift32.injEq,
    CoreState.xorwow.injEq, CoreState.kiss.injEq, CoreState.taus113.injEq, CoreState.coveyou.injEq,
    CoreState.knuthran2.injEq, CoreState.r250.injEq, CoreState.gfsr4.injEq, CoreState.tt800.injEq,
    CoreState.mt19937.injEq, CoreState.dx1597.injEq, CoreState.mrg5.injEq, CoreState.swb2712.injEq,
    CoreState.philox.injEq] at e <;> simp only [genStep, coreState, e, and_self]

theorem gensAfter_congr {g : CoreId} {G H : Gens} (k : Nat) (e : coreState g G = coreState g H) :
    coreState g (gensAfter g k G) = coreState g (gensAfter g k H) := by
  induction k generalizing G H with
  | zero => exact e
  | succ k ih => exact ih (genStep_congr e).2

/-- The whole stream of a core depends on its state alone (R123). -/
theorem rawAt_congr {g : CoreId} {G H : Gens} (k : Nat) (e : coreState g G = coreState g H) :
    rawAt g k G = rawAt g k H := (genStep_congr (gensAfter_congr k e)).1

-- init_int(g, s), init_str(g, cs) (R102, R103)

/-- `genInitInt` changes core `g` alone. -/
theorem genInitInt_copy (g : CoreId) (w : Word) (G : Gens) (b : Xs128) : (genInitInt g w G b).1 = copyCore g (genInitInt g w G b).1 G := by
  cases g <;> simp only [genInitInt, copyCore]

theorem coreState_genInitInt_other {g h : CoreId} (ne : h ≠ g) (w : Word) (G : Gens) (b : Xs128) :
    coreState h (genInitInt g w G b).1 = coreState h G := by
  rw [genInitInt_copy]; exact coreState_copyCore_other ne ..

/-- `genInitStr` changes core `g` alone. -/
theorem genInitStr_copy (g : CoreId) (cs : List CharCode) (G : Gens) (b : Xs128) : (genInitStr g cs G b).1 = copyCore g (genInitStr g cs G b).1 G := by
  cases g <;> simp only [genInitStr, copyCore]

theorem coreState_genInitStr_other {g h : CoreId} (ne : h ≠ g) (cs : List CharCode) (G : Gens) (b : Xs128) :
    coreState h (genInitStr g cs G b).1 = coreState h G := by
  rw [genInitStr_copy]; exact coreState_copyCore_other ne ..

/-- `init_int(g, w)` writes all of `S[g]` as a function of `w` alone (R102, R123). -/
theorem coreState_genInitInt_congr (g : CoreId) (w : Word) (G H : Gens) (b b' : Xs128) :
    coreState g (genInitInt g w G b).1 = coreState g (genInitInt g w H b').1 := by
  cases g <;> simp only [genInitInt, coreState]

/-- `init_str(g, cs)` writes all of `S[g]` as a function of `cs` alone (R102, R123). -/
theorem coreState_genInitStr_congr (g : CoreId) (cs : List CharCode) (G H : Gens) (b b' : Xs128) :
    coreState g (genInitStr g cs G b).1 = coreState g (genInitStr g cs H b').1 := by
  cases g <;> simp only [genInitStr, coreState]

-- seed_apply(g, sd) (R105)

theorem coreState_seedApply_gen (s : State) (g : CoreId) (sd : SeedVal) :
    coreState g (s.seedApply g sd).gen = initialState g sd s.entropyWord := by
  cases sd with
  | none => exact coreState_genInitInt_congr ..
  | int w => exact coreState_genInitInt_congr ..
  | str cs => exact coreState_genInitStr_congr ..

theorem coreState_seedApply_gen_other (s : State) {g h : CoreId} (ne : h ≠ g) (sd : SeedVal) :
    coreState h (s.seedApply g sd).gen = coreState h s.gen := by
  cases sd with
  | none => exact coreState_genInitInt_other ne ..
  | int w => exact coreState_genInitInt_other ne ..
  | str cs => exact coreState_genInitStr_other ne ..

theorem coreState_seedApply_snap (s : State) (g : CoreId) (sd : SeedVal) (hs : sd ≠ .none) :
    coreState g (s.seedApply g sd).snap = coreState g (s.seedApply g sd).gen := by
  cases sd with
  | none => exact absurd rfl hs
  | int w => exact coreState_copyCore_self ..
  | str cs => exact coreState_copyCore_self ..

theorem coreState_seedApply_snap_other (s : State) {g h : CoreId} (ne : h ≠ g) (sd : SeedVal) :
    coreState h (s.seedApply g sd).snap = coreState h s.snap := by
  cases sd with
  | none => rfl
  | int w => exact coreState_copyCore_other ne ..
  | str cs => exact coreState_copyCore_other ne ..

section seedApplyFields
variable (s : State) (g : CoreId) (sd : SeedVal)

@[simp] theorem seedApply_cur : (s.seedApply g sd).cur = s.cur := by cases sd <;> rfl
@[simp] theorem seedApply_lsKind : (s.seedApply g sd).lsKind = s.lsKind := by cases sd <;> rfl
@[simp] theorem seedApply_lsInt : (s.seedApply g sd).lsInt = s.lsInt := by cases sd <;> rfl
@[simp] theorem seedApply_lsLen : (s.seedApply g sd).lsLen = s.lsLen := by cases sd <;> rfl
@[simp] theorem seedApply_lsStr : (s.seedApply g sd).lsStr = s.lsStr := by cases sd <;> rfl
@[simp] theorem seedApply_inst : (s.seedApply g sd).inst = s.inst := by cases sd <;> rfl
@[simp] theorem seedApply_cmd : (s.seedApply g sd).cmd = s.cmd := by cases sd <;> rfl
@[simp] theorem seedApply_resp : (s.seedApply g sd).resp = s.resp := by cases sd <;> rfl
@[simp] theorem seedApply_instOf (k : CoreId) : (s.seedApply g sd).instOf k = s.instOf k := by cases sd <;> rfl
@[simp] theorem seedApply_lastSeed : (s.seedApply g sd).lastSeed = s.lastSeed := by cases sd <;> rfl

@[simp] theorem seedApply_noseedOf (k : CoreId) :
    (s.seedApply g sd).noseedOf k = if g = k then noseedAfter sd else s.noseedOf k := by
  cases sd <;> simp [State.seedApply, State.setMode, State.initTime]

@[simp] theorem seedApply_snapvOf (k : CoreId) :
    (s.seedApply g sd).snapvOf k = if g = k then snapvAfter sd else s.snapvOf k := by
  cases sd <;> simp [State.seedApply, State.setMode, State.initTime]

@[simp] theorem seedApply_recalcOf (k : CoreId) :
    (s.seedApply g sd).recalcOf k = if g = k then 0 else s.recalcOf k := by
  cases sd <;> simp [State.seedApply, State.setMode, State.initTime]

theorem genInitInt_boot (w : Word) (G : Gens) (b : Xs128) (h : usesBoot g (.int w) = false) :
    (genInitInt g w G b).2 = b := by
  cases g <;> first | (simp [usesBoot, seedKind] at h; done) | simp only [genInitInt]

theorem genInitStr_boot (cs : List CharCode) (G : Gens) (b : Xs128) (h : usesBoot g (.str cs) = false) :
    (genInitStr g cs G b).2 = b := by
  cases g <;> first | (simp [usesBoot, seedKind] at h; done) | simp only [genInitStr]

/-- A time seeding runs BOOT on the same cores as an integer one (R105). -/
theorem usesBoot_none (w : Word) : usesBoot g .none = usesBoot g (.int w) := by cases g <;> rfl

/-- Seeding leaves BOOT alone where it does not run it (R106 to R108). -/
theorem seedApply_boot (h : usesBoot g sd = false) : (s.seedApply g sd).boot = s.boot := by
  cases sd with
  | none => exact genInitInt_boot g _ _ _ ((usesBoot_none g (timeSeed g s.entropyWord)).symm.trans h)
  | int w => exact genInitInt_boot g _ _ _ h
  | str cs => exact genInitStr_boot g _ _ _ h

/-- Seeding samples the entropy port once for an absent seed and never otherwise (R105, R322). -/
theorem seedApply_sampled : Sampled (if sd = .none then 1 else 0) s (s.seedApply g sd) := by
  cases sd <;> constructor <;> simp [State.seedApply, State.setMode, State.initTime]

end seedApplyFields

/-- The initial state a seed that was given leaves does not depend on the entropy port (R113, R114). -/
theorem initialState_of_given (g : CoreId) (sd : SeedVal) (h : sd ≠ .none) (e e' : Word) :
    initialState g sd e = initialState g sd e' := by
  cases sd <;> first | exact absurd rfl h | rfl

-- book(g) (R109)

/-- In deterministic mode `book` does nothing (R109). -/
theorem book_deterministic (s : State) (g : CoreId) (h : s.noseedOf g = false) : s.book g = s := by
  simp [State.book, h]

/-- In ambient mode below the limit `book` only counts (R109). -/
theorem book_counts (s : State) (g : CoreId) (h : s.noseedOf g = true) (hr : s.recalcOf g ≠ recalcLimit) :
    s.book g = s.countValue g := by
  simp [State.book, h, State.reseedDue, hr]

/-- In ambient mode at the limit `book` seeds afresh, then counts (R109). -/
theorem book_reseeds (s : State) (g : CoreId) (h : s.noseedOf g = true) (hr : s.recalcOf g = recalcLimit) :
    s.book g = ((s.initTime g).setRecalc g 0).countValue g := by
  simp [State.book, h, State.reseedDue, hr]

/-- The three things `book` can do (R109). -/
theorem book_cases (s : State) (g : CoreId) :
    (s.noseedOf g = false ∧ s.book g = s) ∨
    (s.noseedOf g = true ∧ s.recalcOf g ≠ recalcLimit ∧ s.book g = s.countValue g) ∨
    (s.noseedOf g = true ∧ s.recalcOf g = recalcLimit ∧ s.book g = ((s.initTime g).setRecalc g 0).countValue g) := by
  cases h : s.noseedOf g
  · exact .inl ⟨rfl, book_deterministic s g h⟩
  · by_cases hr : s.recalcOf g = recalcLimit
    · exact .inr (.inr ⟨rfl, hr, book_reseeds s g h hr⟩)
    · exact .inr (.inl ⟨rfl, hr, book_counts s g h hr⟩)

-- The generate loop (R119, R120)

/-- What the loop of RANDOM and RANDOM_INT never writes: everything but `RECALC[g]`, `S[g]`, BOOT (on a
core whose time seeding runs it) and the entropy port. -/
structure LoopFrame (g : CoreId) (s t : State) : Prop where
  cur : t.cur = s.cur
  lsKind : t.lsKind = s.lsKind
  lsInt : t.lsInt = s.lsInt
  lsLen : t.lsLen = s.lsLen
  lsStr : t.lsStr = s.lsStr
  noseed : t.noseed = s.noseed
  snapv : t.snapv = s.snapv
  inst : t.inst = s.inst
  snap : t.snap = s.snap
  cmd : t.cmd = s.cmd
  resp : t.resp = s.resp
  boot : usesBoot g .none = false → t.boot = s.boot
  others : ∀ h, h ≠ g → coreState h t.gen = coreState h s.gen ∧ t.recalcOf h = s.recalcOf h

theorem LoopFrame.refl (g : CoreId) (s : State) : LoopFrame g s s :=
  ⟨rfl, rfl, rfl, rfl, rfl, rfl, rfl, rfl, rfl, rfl, rfl, fun _ => rfl, fun _ _ => ⟨rfl, rfl⟩⟩

theorem LoopFrame.trans {g : CoreId} {s t u : State} (a : LoopFrame g s t) (b : LoopFrame g t u) : LoopFrame g s u :=
  ⟨b.cur.trans a.cur, b.lsKind.trans a.lsKind, b.lsInt.trans a.lsInt, b.lsLen.trans a.lsLen, b.lsStr.trans a.lsStr,
   b.noseed.trans a.noseed, b.snapv.trans a.snapv, b.inst.trans a.inst, b.snap.trans a.snap, b.cmd.trans a.cmd,
   b.resp.trans a.resp, fun h => (b.boot h).trans (a.boot h),
   fun h ne => ⟨((b.others h ne).1).trans (a.others h ne).1, ((b.others h ne).2).trans (a.others h ne).2⟩⟩

theorem book_frame (s : State) (g : CoreId) : LoopFrame g s (s.book g) := by
  rcases book_cases s g with ⟨_, e⟩ | ⟨_, _, e⟩ | ⟨_, _, e⟩ <;> rw [e]
  · exact LoopFrame.refl g s
  · refine ⟨rfl, rfl, rfl, rfl, rfl, rfl, rfl, rfl, rfl, rfl, rfl, fun _ => rfl, fun h ne => ⟨rfl, ?_⟩⟩
    simp [State.countValue, Ne.symm ne]
  · refine ⟨rfl, rfl, rfl, rfl, rfl, rfl, rfl, rfl, rfl, rfl, rfl, fun h => ?_, fun h ne => ⟨?_, ?_⟩⟩
    · exact genInitInt_boot g _ _ _ ((usesBoot_none g (timeSeed g s.entropyWord)).symm.trans h)
    · exact coreState_genInitInt_other ne ..
    · simp [State.countValue, State.initTime, Ne.symm ne]

theorem stepCore_frame (s : State) (g : CoreId) : LoopFrame g s (s.stepCore g) :=
  ⟨rfl, rfl, rfl, rfl, rfl, rfl, rfl, rfl, rfl, rfl, rfl, fun _ => rfl, fun _ ne => ⟨coreState_genStep_other ne _, rfl⟩⟩

theorem generate_frame (g : CoreId) (k : Nat) (s : State) : LoopFrame g s (State.generate g k s).2 := by
  induction k generalizing s with
  | zero => exact LoopFrame.refl g s
  | succ k ih => exact ((book_frame s g).trans (stepCore_frame _ g)).trans (ih _)

@[simp] theorem generate_length (g : CoreId) (k : Nat) (s : State) : (State.generate g k s).1.length = k := by
  induction k generalizing s with
  | zero => rfl
  | succ k ih => simp [State.generate, ih]

theorem LoopFrame.noseedOf {g : CoreId} {s t : State} (a : LoopFrame g s t) (k : CoreId) :
    t.noseedOf k = s.noseedOf k := by unfold State.noseedOf; simp only [a.noseed]

theorem LoopFrame.snapvOf {g : CoreId} {s t : State} (a : LoopFrame g s t) (k : CoreId) :
    t.snapvOf k = s.snapvOf k := by unfold State.snapvOf; simp only [a.snapv]

theorem LoopFrame.instOf {g : CoreId} {s t : State} (a : LoopFrame g s t) (k : CoreId) :
    t.instOf k = s.instOf k := by unfold State.instOf; simp only [a.inst]

/-- In deterministic mode the loop only steps the core: it takes no sample and writes nothing but `S[g]` (R109). -/
theorem generate_deterministic (g : CoreId) (k : Nat) (s : State) (h : s.noseedOf g = false) :
    (State.generate g k s).2 = { s with gen := gensAfter g k s.gen } := by
  induction k generalizing s with
  | zero => rfl
  | succ k ih =>
    simp only [State.generate, book_deterministic s g h]
    rw [ih (s.stepCore g) (by simpa using h)]
    rfl

/-- In deterministic mode value number `j` of the loop is raw output number `j` (R119, R123). -/
theorem generate_deterministic_get (g : CoreId) (k : Nat) (s : State) (h : s.noseedOf g = false) (j : Nat)
    (hj : j < k) : (State.generate g k s).1[j]'(by simpa using hj) = rawAt g j s.gen := by
  induction k generalizing s j with
  | zero => omega
  | succ k ih =>
    cases j with
    | zero => simp only [State.generate, book_deterministic s g h]; rfl
    | succ j =>
      simp only [State.generate, book_deterministic s g h, List.getElem_cons_succ]
      exact ih (s.stepCore g) (by simpa using h) j (by omega)

/-- The loop of RANDOM unrolled at its front. -/
theorem loopState_succ (g : CoreId) (s : State) (j : Nat) :
    loopState g s (j + 1) = loopState g ((s.book g).stepCore g) j := by
  induction j with
  | zero => rfl
  | succ j ih => rw [loopState, ih]; rfl

theorem loopRaw_succ (g : CoreId) (s : State) (j : Nat) :
    loopRaw g s (j + 1) = loopRaw g ((s.book g).stepCore g) j := by
  rw [loopRaw, loopState_succ]; rfl

/-- The block after `k` rounds of the loop (R119). -/
theorem generate_state (g : CoreId) (k : Nat) (s : State) : (State.generate g k s).2 = loopState g s k := by
  induction k generalizing s with
  | zero => rfl
  | succ k ih => rw [loopState_succ]; exact ih _

/-- Value number `j` of the loop (R119). -/
theorem generate_get (g : CoreId) (k : Nat) (s : State) (j : Nat) (h : j < k) :
    (State.generate g k s).1[j]'(by simpa using h) = loopRaw g s j := by
  induction k generalizing s j with
  | zero => omega
  | succ k ih =>
    cases j with
    | zero => rfl
    | succ j => rw [loopRaw_succ]; exact ih _ j (by omega)

/-- Every core but DEFAULT gives raw integers (R117, R168). -/
theorem givesIntegers_iff (g : CoreId) : givesIntegers g = true ↔ g ≠ .dflt := by
  simp [givesIntegers, Config.defaultHasInt]

/-- `RECALC_FREQ` fits the 17-bit counter (R29). -/
theorem recalcLimit_toNat : recalcLimit.toNat = Config.recalcFreq := by decide

/-- `count(n)` is at least 1 (R118). -/
theorem valueCount_pos (n : Int) : 1 ≤ valueCount n := by
  unfold valueCount; split <;> omega

end Sys2Proof.Machine
end

