-- ==== Sys2Proof/Laws/Cores.lean ====
section
/-! SUPPORT. What the small operations of the generator cores can do: residues, xorshift maps, reads and writes of the
circular buffers by index, the fill from BOOT, the text procedure, and the word lists of the seedings. -/

namespace Sys2Proof.Machine

-- Residues (spec/41_modmul.md R140)

theorem modmul_lt (a b : Nat) {m : Nat} (hm : 0 < m) : modmul a b m < m := Nat.mod_lt _ hm

/-- A product by a number coprime to `M31` is 0 modulo `M31` only where the other factor is 0. -/
theorem eq_zero_of_modmul_eq_zero (x k : Nat) (hk : Nat.Coprime 2147483647 k) (hx : x < 2147483647)
    (h : modmul x k 2147483647 = 0) : x = 0 :=
  Nat.eq_zero_of_dvd_of_lt (hk.dvd_of_dvd_mul_right (Nat.dvd_of_mod_eq_zero h)) hx

theorem ofNat31_toNat (x : Nat) (h : x < 2147483647) : (BitVec.ofNat 31 x).toNat = x := by
  rw [BitVec.toNat_ofNat, Nat.mod_eq_of_lt (by omega)]

theorem ofNat32_toNat (x : Nat) (h : x < 2147483647) : (BitVec.ofNat 32 x).toNat = x := by
  rw [BitVec.toNat_ofNat, Nat.mod_eq_of_lt (by omega)]

theorem redM31_lt (v : Word) : (redM31 v).toNat < 2147483647 := by
  have h := Nat.mod_lt v.toNat (by decide : 0 < 2147483647)
  rw [redM31, ofNat32_toNat _ h]
  exact h

/-- A word is 2 modulo 4 exactly when its two low bits are 10 (R198). -/
theorem toNat_mod_four_eq_two (x : Word) : x.toNat % 4 = 2 ↔ x.getLsbD 0 = false ∧ x.getLsbD 1 = true := by
  simp only [BitVec.getLsbD, Nat.testBit_eq_decide_div_mod_eq, decide_eq_false_iff_not, decide_eq_true_eq]
  omega

-- Xorshift maps (R181, R182)

theorem xor_shiftLeft_injective (k : Nat) (hk : 0 < k) : Function.Injective fun x : Word => x ^^^ (x <<< k) := by
  intro a b h
  have h' : a ^^^ (a <<< k) = b ^^^ (b <<< k) := h
  have key : ∀ i, a.getLsbD i = b.getLsbD i := by
    intro i
    induction i using Nat.strong_induction_on with
    | _ i ih =>
      have := congrArg (fun v => BitVec.getLsbD v i) h'
      simp only [BitVec.getLsbD_xor, BitVec.getLsbD_shiftLeft] at this
      by_cases hi : i < k
      · simpa [hi] using this
      · rw [ih (i - k) (by omega)] at this
        simpa using this
  exact BitVec.eq_of_getLsbD_eq fun i _ => key i

theorem xor_shiftRight_injective (k : Nat) (hk : 0 < k) : Function.Injective fun x : Word => x ^^^ (x >>> k) := by
  intro a b h
  have h' : a ^^^ (a >>> k) = b ^^^ (b >>> k) := h
  have key : ∀ n i, 32 ≤ i + n → a.getLsbD i = b.getLsbD i := by
    intro n
    induction n using Nat.strong_induction_on with
    | _ n ih =>
      intro i hi
      by_cases h32 : 32 ≤ i
      · simp [BitVec.getLsbD_of_ge _ _ h32]
      · have := congrArg (fun v => BitVec.getLsbD v i) h'
        simp only [BitVec.getLsbD_xor, BitVec.getLsbD_ushiftRight] at this
        rw [ih (n - 1) (by omega) (k + i) (by omega)] at this
        simpa using this
  exact BitVec.eq_of_getLsbD_eq fun i _ => key 32 i (by omega)

-- Buffers by index (R61)

/-- The word at lag `j` stands at index `i` where `i = (P + K - j) mod K` (R61). -/
theorem lag_eq_get {K : Nat} (b : Buffer K) (j i : Nat) (hi : i < K) (e : (b.p.val + K - j) % K = i) :
    lag b j = b.buf[i] := by
  subst e; rfl

/-- The oldest word, lag `K`, stands at the read pointer (R61). -/
theorem lag_oldest {K : Nat} (b : Buffer K) : lag b K = b.buf[b.p] := by
  apply lag_eq_get
  rw [Nat.add_sub_cancel, Nat.mod_eq_of_lt b.p.isLt]

theorem push_get_self {K : Nat} (b : Buffer K) (v : Word) : (push b v).buf[b.p] = v := by simp

theorem push_get_other {K : Nat} (b : Buffer K) (v : Word) (i : Fin K) (h : i ≠ b.p) :
    (push b v).buf[i] = b.buf[i] := by
  simp only [push_buf]
  exact Vector.getElem_set_ne _ _ fun e => h (Fin.ext e.symm)

-- The seedings (R106, R221, R266)

/-- A property that `fold` and `step` keep holds after a text (R106). -/
theorem scalarInitStr_induct {σ : Type} (P : σ → Prop) (init0 : σ) (fold : σ → CharCode → σ) (stp : σ → Word × σ)
    (h0 : P init0) (hf : ∀ st c, P st → P (fold st c)) (hs : ∀ st, P st → P (stp st).2) (cs : List CharCode) :
    P (scalarInitStr init0 fold stp cs) := by
  unfold scalarInitStr
  induction cs generalizing init0 with
  | nil => exact h0
  | cons c cs ih => exact ih _ (hs _ (hf _ c h0))

/-- Draw number `i` of BOOT (R166, R221). -/
theorem bootDraws_get (k : Nat) (boot : Xs128) (i : Nat) (h : i < k) :
    (bootDraws k boot).1[i]'(by rw [bootDraws_length]; exact h) =
      (xs128Step ((fun st => (xs128Step st).2)^[i] boot)).1 := by
  induction k generalizing boot i with
  | zero => omega
  | succ k ih =>
    cases i with
    | zero => rfl
    | succ i =>
      simp only [bootDraws, List.getElem_cons_succ, Function.iterate_succ, Function.comp]
      exact ih _ i (by omega)

/-- Every word of a buffer filled modulo `M31` is a residue (R221). -/
theorem fillBuffer_redM31_lt {K : Nat} (hK : 0 < K) (boot : Xs128) (i : Fin K) :
    (fillBuffer hK redM31 boot).1.buf[i].toNat < 2147483647 := by
  have e : (fillBuffer hK redM31 boot).1.buf[i] =
      redM31 ((bootDraws K boot).1[i.val]'(by rw [bootDraws_length]; exact i.isLt)) := by
    simp [fillBuffer]
  rw [e]
  exact redM31_lt _

/-- Each word of `wordsFrom` is made from the word before it. -/
theorem wordsFrom_get (f : Nat → Word → Word) (n : Nat) : ∀ (i : Nat) (p : Word) (j : Nat) (h : j < n),
    ((p :: wordsFrom f n i p)[j + 1]'(by simp [wordsFrom_length]; omega)) =
      f (i + j) ((p :: wordsFrom f n i p)[j]'(by simp [wordsFrom_length]; omega)) := by
  induction n with
  | zero => intro i p j h; omega
  | succ n ih =>
    intro i p j h
    cases j with
    | zero => rfl
    | succ j =>
      have := ih (i + 1) (f i p) j (by omega)
      simp only [wordsFrom, List.getElem_cons_succ] at this ⊢
      rw [this]; congr 1; omega

theorem mt19937InitInt_get (s : Word) (i : Nat) (h : i < 624) :
    (mt19937InitInt s).buf[i] = (s :: wordsFrom mt19937SeedWord 623 1 s)[i]'(by simp [wordsFrom_length]; omega) := by
  simp only [mt19937InitInt, Vector.getElem_mk, List.getElem_toArray]

-- PHILOX (R280, R284) and the twist (R261, R268)

/-- The four words of a 128-bit number are that number again (R280). -/
theorem ctrNumber_ctrOfNumber (n : Nat) (h : n < 2 ^ 128) : ctrNumber (ctrOfNumber n) = n := by
  simp only [ctrNumber, ctrOfNumber]
  simp
  omega

/-- The twist as one xor: the shifted word, and the matrix constant where the word is odd (R261, R268). -/
theorem twist_eq (o a : Word) : twist o a = (o >>> 1) ^^^ (if o.toNat % 2 = 1 then a else 0) := by
  have : o.getLsbD 0 = decide (o.toNat % 2 = 1) := by simp [BitVec.getLsbD, Nat.testBit_zero]
  unfold twist
  rw [this]
  simp only [decide_eq_true_eq]
  split <;> simp

-- Normalisation (R110)

/-- The divisors of the normalised outputs (R6). -/
theorem modulus_range (g : CoreId) :
    2 ^ 31 - 1 ≤ modulus g ∧ modulus g ≤ 2 ^ 32 ∧ (modulus g = 2 ^ 32 ∨ modulus g = 2 ^ 31 - 1) := by
  cases g <;> decide

/-- The scaled fraction has a 53-bit integer part (R110). -/
theorem normShift_spec (n d : Nat) (hn : 0 < n) (hd : n < d) :
    2 ^ 52 * d ≤ n * 2 ^ normShift n d ∧ n * 2 ^ normShift n d < 2 ^ 53 * d := by
  have d1 := Nat.log2_self_le (n := d) (by omega)
  have d2 := Nat.lt_log2_self (n := d)
  have n1 := Nat.log2_self_le (n := n) (by omega)
  have n2 := Nat.lt_log2_self (n := n)
  have hle : Nat.log2 n ≤ Nat.log2 d := by
    by_contra h
    have : 2 ^ (Nat.log2 d + 1) ≤ 2 ^ Nat.log2 n := Nat.pow_le_pow_right (by omega) (by omega)
    omega
  obtain ⟨j, hj⟩ := Nat.exists_eq_add_of_le hle
  have ek : 52 + Nat.log2 d - Nat.log2 n = 52 + j := by omega
  have e1 : n * 2 ^ (52 + j) = 2 ^ 52 * (n * 2 ^ j) := by ring
  have e2 : n * 2 ^ (52 + j + 1) = 2 ^ 53 * (n * 2 ^ j) := by ring
  have a1 : 2 ^ Nat.log2 n * 2 ^ j ≤ n * 2 ^ j := Nat.mul_le_mul_right _ n1
  have a2 : n * 2 ^ j < 2 ^ (Nat.log2 n + 1) * 2 ^ j := Nat.mul_lt_mul_of_pos_right n2 (Nat.two_pow_pos j)
  rw [hj] at d1 d2
  simp only [pow_add, pow_one] at d1 d2 a1 a2
  generalize 2 ^ Nat.log2 n = L at *
  have a3 : L * 2 * 2 ^ j = 2 * (L * 2 ^ j) := by ring
  unfold normShift
  simp only [ek]
  split
  · next h => rw [e1] at h ⊢; constructor <;> omega
  · next h => rw [e1] at h; rw [e2]; constructor <;> omega

/-- Rounding is off by at most one half, and by less where no tie can occur (R110). -/
theorem roundNearestEven_spec (num den : Nat) (hden : 0 < den) :
    2 * num ≤ (2 * roundNearestEven num den + 1) * den ∧ 2 * roundNearestEven num den * den ≤ 2 * num + den ∧
    ((den % 2 = 1 ∨ den ∣ num) →
      2 * num < (2 * roundNearestEven num den + 1) * den ∧ 2 * roundNearestEven num den * den < 2 * num + den) := by
  have e := Nat.div_add_mod num den
  have l := Nat.mod_lt num hden
  unfold roundNearestEven
  dsimp only
  generalize hq : num / den = q at *
  generalize hr : num % den = r at *
  have dv : den ∣ num → r = 0 := fun h => by rw [← hr]; exact Nat.mod_eq_zero_of_dvd h
  have m1 : (2 * (q + 1) + 1) * den = 2 * (den * q) + 3 * den := by ring
  have m2 : 2 * (q + 1) * den = 2 * (den * q) + 2 * den := by ring
  have m3 : (2 * q + 1) * den = 2 * (den * q) + den := by ring
  have m4 : 2 * q * den = 2 * (den * q) := by ring
  split
  · rw [m1, m2]; exact ⟨by omega, by omega, fun _ => ⟨by omega, by omega⟩⟩
  · split
    · rcases Nat.mod_two_eq_zero_or_one q with h | h <;> rw [h]
      · rw [show q + 0 = q from rfl, m3, m4]
        refine ⟨by omega, by omega, fun h => ?_⟩
        rcases h with h | h
        · omega
        · have := dv h; omega
      · rw [m1, m2]
        refine ⟨by omega, by omega, fun h => ?_⟩
        rcases h with h | h
        · omega
        · have := dv h; omega
    · rw [m3, m4]
      refine ⟨by omega, by omega, fun h => ?_⟩
      rcases h with h | h
      · exact ⟨by omega, by omega⟩
      · have := dv h; exact ⟨by omega, by omega⟩

/-- The rounded significand (R110). -/
theorem normSignificand_range (n d : Nat) (hn : 0 < n) (hd : n < d) :
    2 ^ 52 ≤ normSignificand n d ∧ normSignificand n d ≤ 2 ^ 53 := by
  obtain ⟨a, b⟩ := normShift_spec n d hn hd
  obtain ⟨c, e, _⟩ := roundNearestEven_spec (n * 2 ^ normShift n d) d (by omega)
  unfold normSignificand
  generalize n * 2 ^ normShift n d = N at *
  generalize roundNearestEven N d = s at *
  constructor
  · by_contra h
    have : (2 * s + 1) * d ≤ (2 * (2 ^ 52 - 1) + 1) * d := Nat.mul_le_mul_right _ (by omega)
    omega
  · by_contra h
    have : 2 * (2 ^ 53 + 1) * d ≤ 2 * s * d := Nat.mul_le_mul_right _ (by omega)
    omega

end Sys2Proof.Machine
end

