-- ==== Sys2Proof/Laws/Decode.lean ====
section
/-! SUPPORT. The fields of a command word, and the characters of a text, read back from what the encoder wrote
(spec/30_encoding.md R80 to R85). -/

namespace Sys2Proof

@[simp] theorem opField_cmdWord (op : BitVec 8) (arg : BitVec 32) : opField (cmdWord op arg) = op := by
  simp only [opField, cmdWord]
  ext i h
  simp only [BitVec.getElem_extractLsb', BitVec.getLsbD_append]
  have : ¬ 32 + i < 32 := by omega
  simp [this, BitVec.getLsbD_eq_getElem h]

@[simp] theorem argField_cmdWord (op : BitVec 8) (arg : BitVec 32) : argField (cmdWord op arg) = arg := by
  simp only [argField, cmdWord]
  ext i h
  rw [BitVec.getElem_extractLsb', BitVec.getLsbD_append]
  simp [h]

/-- A word is its two fields (R80). -/
theorem cmdWord_fields (w : CmdWord) : cmdWord (opField w) (argField w) = w := by
  apply BitVec.eq_of_getLsbD_eq
  intro i h
  simp only [opField, argField, cmdWord, BitVec.getLsbD_append, BitVec.getLsbD_extractLsb']
  by_cases h32 : i < 32
  · simp [h32]
  · have : i - 32 < 8 := by omega
    have e : 32 + (i - 32) = i := by omega
    simp [h32, this, e]

/-- A word is a number below 2^40 whose upper part is `OP` and whose lower part is `ARG` (R80). -/
theorem cmdWord_toNat (op : BitVec 8) (arg : BitVec 32) : (cmdWord op arg).toNat = op.toNat * 2 ^ 32 + arg.toNat := by
  rw [cmdWord, BitVec.toNat_append, ← Nat.shiftLeft_add_eq_or_of_lt arg.isLt, Nat.shiftLeft_eq]

theorem argField_toNat (w : CmdWord) : (argField w).toNat = w.toNat % 2 ^ 32 := by
  simp [argField, BitVec.extractLsb'_toNat]

theorem argLow_toNat (w : CmdWord) : (argLow w).toNat = (argField w).toNat % 2 ^ 16 := by
  simp [argField, argLow, BitVec.extractLsb'_toNat]

theorem argHigh_toNat (w : CmdWord) : (argHigh w).toNat = (argField w).toNat / 2 ^ 16 := by
  simp only [argField, argHigh, BitVec.extractLsb'_toNat, Nat.shiftRight_eq_div_pow]
  omega

/-- `ARG[31:16] = 0` says that `ARG` is a 16-bit number (R81). -/
theorem argHigh_eq_zero (w : CmdWord) : argHigh w = 0 ↔ (argField w).toNat < 2 ^ 16 := by
  rw [← BitVec.toNat_inj, argHigh_toNat]
  simp only [BitVec.ofNat_eq_ofNat, BitVec.toNat_ofNat]
  omega

@[simp] theorem argLow_cmdWord (op : BitVec 8) (c : BitVec 16) : argLow (cmdWord op (c.setWidth 32)) = c := by
  rw [← BitVec.toNat_inj, argLow_toNat, argField_cmdWord, BitVec.toNat_setWidth]
  have := c.isLt
  omega

@[simp] theorem argHigh_cmdWord (op : BitVec 8) (c : BitVec 16) : argHigh (cmdWord op (c.setWidth 32)) = 0 := by
  rw [argHigh_eq_zero, argField_cmdWord, BitVec.toNat_setWidth]
  have := c.isLt
  omega

/-- `ARG[31:8] = 0` says that `ARG` is an 8-bit number (R81, format G). -/
theorem argGid_eq_zero (w : CmdWord) : w.extractLsb' 8 24 = (0 : BitVec 24) ↔ (argField w).toNat < 2 ^ 8 := by
  rw [← BitVec.toNat_inj, argField_toNat]
  simp only [BitVec.extractLsb'_toNat, Nat.shiftRight_eq_div_pow, BitVec.ofNat_eq_ofNat, BitVec.toNat_ofNat]
  omega

/-- `OP` = 0x1_ is the digit 1 before the type tag (R83, R86). -/
theorem tagOp_toNat (t : BitVec 4) : ((1 : BitVec 4) ++ t).toNat = 0x10 + t.toNat := by
  rw [BitVec.toNat_append, ← Nat.shiftLeft_add_eq_or_of_lt t.isLt]; rfl

-- The characters of a text (R84, R85).

@[simp] theorem charOf_charWord (c : CharCode) : charOf (charWord c) = some c := by
  simp [charOf, charWord]

/-- A word carries a character exactly when it is that character's CHAR word (R84, R85). -/
theorem charOf_eq_some (w : CmdWord) (c : CharCode) : charOf w = some c ↔ w = charWord c := by
  constructor
  · intro h
    unfold charOf at h
    split at h
    · next hw =>
      simp only [Option.some.injEq] at h
      subst h
      rw [← cmdWord_fields w, charWord]
      have h1 : opField w = 0x80 := by rw [← BitVec.toNat_inj]; exact hw.1
      have h2 : argField w = (argLow w).setWidth 32 := by
        rw [← BitVec.toNat_inj, BitVec.toNat_setWidth, argLow_toNat]
        have := (argHigh_eq_zero w).mp hw.2
        omega
      rw [cmdWord_fields, ← h2, ← h1, cmdWord_fields]
    · exact absurd h (by simp)
  · rintro rfl; exact charOf_charWord c

@[simp] theorem charsOf_map_charWord (cs : List CharCode) : charsOf (cs.map charWord) = some cs := by
  induction cs with
  | nil => rfl
  | cons c cs ih => simp [charsOf, ih]

/-- A run of words is a text exactly when it is the CHAR words of that text (R85). -/
theorem charsOf_eq_some (ws : List CmdWord) (cs : List CharCode) : charsOf ws = some cs ↔ ws = cs.map charWord := by
  constructor
  · intro h
    induction ws generalizing cs with
    | nil => simp only [charsOf, Option.some.injEq] at h; subst h; rfl
    | cons w ws ih =>
      simp only [charsOf] at h
      split at h
      · next c cs' hc hcs =>
        simp only [Option.some.injEq] at h
        subst h
        rw [(charOf_eq_some w c).mp hc, ih _ hcs]
        rfl
      · exact absurd h (by simp)
  · rintro rfl; exact charsOf_map_charWord cs

/-- A run of words is no text when one of them is no well-formed CHAR word (R84). -/
theorem charsOf_eq_none (ws : List CmdWord)
    (h : ∃ w ∈ ws, (opField w).toNat ≠ 0x80 ∨ 2 ^ 16 ≤ (argField w).toNat) : charsOf ws = none := by
  rw [Option.eq_none_iff_forall_ne_some]
  rintro cs hcs
  obtain ⟨w, hw, hbad⟩ := h
  rw [(charsOf_eq_some ws cs).mp hcs, List.mem_map] at hw
  obtain ⟨c, -, rfl⟩ := hw
  rcases hbad with hb | hb
  · exact hb (by simp [charWord])
  · rw [charWord, argField_cmdWord, BitVec.toNat_setWidth] at hb
    have := c.isLt
    omega

-- Headers (R81 to R84).

/-- What an opcode of one value decodes to: the arm of R83's table. -/
theorem decodeHeader_of_op (w : CmdWord) {n : Nat} (h : (opField w).toNat = n) :
    decodeHeader w =
      if n = 0x10 then formatN w .seedNone
      else if n = 0x11 then .single (.seedInt (argField w))
      else if n = 0x12 then formatS w
      else if 0x13 ≤ n ∧ n ≤ 0x1F then formatT w
      else if n = 0x20 then formatN w .next
      else if n = 0x21 then formatN w .nextInt
      else if n = 0x22 then .single (.random (argField w))
      else if n = 0x23 then .single (.randomInt (argField w))
      else if n = 0x30 then formatG w
      else if n = 0x31 then formatN w .restore
      else if n = 0x80 then formatX w
      else .bad .unusedOpcode := by
  subst h; rfl

/-- A legal SEED_STR header (R85). -/
theorem decodeHeader_seedStr (w : CmdWord) (hop : (opField w).toNat = 0x12) (harg : (argField w).toNat ≤ 256) :
    decodeHeader w = .text (argField w).toNat := by
  have h1 : argHigh w = 0 := (argHigh_eq_zero w).mpr (by omega)
  have h2 : (argLow w).toNat = (argField w).toNat := by rw [argLow_toNat]; omega
  rw [decodeHeader_of_op w hop]
  simp [formatS, h1, h2, harg]

/-- A SEED_STR header whose text is too long, or whose upper half of `ARG` is not 0, is illegal (R84 (c), (d)). -/
theorem decodeHeader_seedStr_bad (w : CmdWord) (hop : (opField w).toNat = 0x12) (harg : 256 < (argField w).toNat) :
    ∃ why, decodeHeader w = .bad why := by
  rw [decodeHeader_of_op w hop]
  by_cases h1 : argHigh w = 0
  · have h3 := (argHigh_eq_zero w).mp h1
    have h2 : (argLow w).toNat = (argField w).toNat := by rw [argLow_toNat]; omega
    exact ⟨.textTooLong, by simp [formatS, h1, h2]; omega⟩
  · exact ⟨.reservedField, by rw [formatS, if_neg h1]; rfl⟩

/-- A text with its words still to come waits (R335). -/
theorem decodeText_waiting (hdr : CmdWord) (len : Nat) (rest : List CmdWord) (h : rest.length < len) :
    decodeText hdr len rest = .waiting := by simp [decodeText, h]

/-- A text all of whose words have arrived takes exactly those (R85). -/
theorem decodeText_complete (hdr : CmdWord) (ext rest : List CmdWord) :
    decodeText hdr ext.length (ext ++ rest) =
      match charsOf ext with
      | some cs => .instr (.seedStr cs) rest
      | none => .illegal .malformedChar hdr rest := by
  cases h : charsOf ext <;> simp [decodeText, h]

/-- Format N gives its own command, and only where `ARG` is 0 (R81). -/
theorem formatN_single (w : CmdWord) (i j : Instr) (h : formatN w i = .single j) : j = i ∧ argField w = 0 := by
  unfold formatN at h
  split at h
  · next h0 => cases h; exact ⟨rfl, h0⟩
  · cases h

/-- A word with the fields `op` and `arg` is the word of those fields (R80). -/
theorem word_of_fields (w : CmdWord) (op : BitVec 8) (arg : BitVec 32) (h1 : (opField w).toNat = op.toNat)
    (h2 : argField w = arg) : cmdWord op arg = w := by
  rw [← h2, ← BitVec.toNat_inj.mp h1, cmdWord_fields]

/-- A word the decoder takes for a command of one word is that command's header, with no bit to spare (R80 to R86). -/
theorem decodeHeader_eq_single (w : CmdWord) (i : Instr) (h : decodeHeader w = .single i) :
    i.wf = true ∧ headerWord i = w ∧ extensionWords i = [] := by
  unfold decodeHeader at h
  dsimp only at h
  split at h
  · next e => obtain ⟨rfl, h2⟩ := formatN_single _ _ _ h; exact ⟨rfl, word_of_fields w _ _ e h2, rfl⟩
  split at h
  · next e => cases h; exact ⟨rfl, word_of_fields w _ _ e rfl, rfl⟩
  split at h
  · unfold formatS at h; split at h
    · split at h <;> cases h
    · cases h
  split at h
  · next e =>
    cases h
    have hop : (opField w).toNat = w.toNat / 2 ^ 32 := by
      have := w.isLt
      simp only [opField, BitVec.extractLsb'_toNat, Nat.shiftRight_eq_div_pow]; omega
    have ht : (w.extractLsb' 32 4).toNat = (opField w).toNat - 0x10 := by
      rw [hop] at e ⊢
      simp only [BitVec.extractLsb'_toNat, Nat.shiftRight_eq_div_pow]; omega
    refine ⟨?_, word_of_fields w _ _ ?_ rfl, rfl⟩
    · simp only [Instr.wf, tagIsOther, ht]; simp; omega
    · rw [tagOp_toNat, ht]; omega
  split at h
  · next e => obtain ⟨rfl, h2⟩ := formatN_single _ _ _ h; exact ⟨rfl, word_of_fields w _ _ e h2, rfl⟩
  split at h
  · next e => obtain ⟨rfl, h2⟩ := formatN_single _ _ _ h; exact ⟨rfl, word_of_fields w _ _ e h2, rfl⟩
  split at h
  · next e => cases h; exact ⟨rfl, word_of_fields w _ _ e rfl, rfl⟩
  split at h
  · next e => cases h; exact ⟨rfl, word_of_fields w _ _ e rfl, rfl⟩
  split at h
  · next e =>
    unfold formatG at h
    split at h
    · next h0 =>
      cases h
      refine ⟨rfl, word_of_fields w _ _ e ?_, rfl⟩
      have h1 := (argGid_eq_zero w).mp h0
      rw [← BitVec.toNat_inj, BitVec.toNat_setWidth, BitVec.extractLsb'_toNat]
      rw [argField_toNat] at h1 ⊢
      simp; omega
    · cases h
  split at h
  · next e => obtain ⟨rfl, h2⟩ := formatN_single _ _ _ h; exact ⟨rfl, word_of_fields w _ _ e h2, rfl⟩
  split at h
  · next e =>
    unfold formatX at h
    split at h
    · next h0 =>
      cases h
      refine ⟨rfl, word_of_fields w _ _ e ?_, rfl⟩
      have h1 := (argHigh_eq_zero w).mp h0
      rw [← BitVec.toNat_inj, BitVec.toNat_setWidth, argLow_toNat]
      omega
    · cases h
  · cases h

/-- A word the decoder takes for a SEED_STR header of `len` characters is that header (R85). -/
theorem decodeHeader_eq_text (w : CmdWord) (len : Nat) (h : decodeHeader w = .text len) :
    len ≤ Config.maxSeedLen ∧ cmdWord 0x12 (BitVec.ofNat 32 len) = w := by
  have key : ∀ i, formatN w i ≠ .text len := by
    intro i hf; unfold formatN at hf; split at hf <;> cases hf
  unfold decodeHeader at h
  dsimp only at h
  split at h
  · exact absurd h (key _)
  split at h
  · cases h
  split at h
  · next e =>
    unfold formatS at h
    split at h
    · next h0 =>
      split at h
      · next h1 =>
        cases h
        have h2 := (argHigh_eq_zero w).mp h0
        refine ⟨h1, word_of_fields w _ _ e ?_⟩
        rw [← BitVec.toNat_inj, BitVec.toNat_ofNat, argLow_toNat]
        omega
      · cases h
    · cases h
  split at h
  · cases h
  split at h
  · exact absurd h (key _)
  split at h
  · exact absurd h (key _)
  split at h
  · cases h
  split at h
  · cases h
  split at h
  · unfold formatG at h; split at h <;> cases h
  split at h
  · exact absurd h (key _)
  split at h
  · unfold formatX at h; split at h <;> cases h
  · cases h

end Sys2Proof
end

