-- ==== Sys2Proof/Laws/Exec.lean ====
section
/-! SUPPORT. What each command answers, case by case: the next state of every arm of `exec` written over the operations of
the contract, so that no later proof unfolds a meaning. -/

namespace Sys2Proof.Machine

variable (s : State)

theorem exec_seedNone :
    exec .seedNone s = .next ((s.forgetSeed.seedApply s.cur .none).send [noValueBeat]) := rfl

theorem exec_seedInt (imm : BitVec 32) :
    exec (.seedInt imm) s = .next (((s.keepSeedInt imm).seedApply s.cur (.int imm)).send [noValueBeat]) := rfl

theorem exec_seedStr (cs : List CharCode) (h : cs.length ≤ Config.maxSeedLen) :
    exec (.seedStr cs) s = .next (((s.keepSeedStr cs h).seedApply s.cur (.str cs)).send [noValueBeat]) := by
  simp only [exec, execSeedStr, dif_pos h, answerNothing_eq]

theorem exec_seedStr_long (cs : List CharCode) (h : ¬cs.length ≤ Config.maxSeedLen) :
    exec (.seedStr cs) s = .next (s.send [errorBeat .illegalCommand (headerWord (.seedStr cs))]) := by
  simp only [exec, execSeedStr, dif_neg h, raiseError_eq]

theorem exec_seedOther (t : BitVec 4) (arg : BitVec 32) :
    exec (.seedOther t arg) s =
      .next ((((s.setNoseed s.cur true).setSnapv s.cur false).forgetSeed).send
        [errorBeat .invalidSeedType (headerWord (.seedOther t arg))]) := rfl

theorem exec_next :
    exec .next s =
      .next ((s.stepCore s.cur).send [valueBeat .float false true (encodeRaw .float s.cur (s.rawOf s.cur))]) := rfl

theorem exec_nextInt (h : givesIntegers s.cur = true) :
    exec .nextInt s =
      .next ((s.stepCore s.cur).send [valueBeat .int false true (encodeRaw .int s.cur (s.rawOf s.cur))]) := by
  simp only [exec, execNextInt, if_pos h, emitOne]

theorem exec_nextInt_unsupported (h : ¬givesIntegers s.cur = true) :
    exec .nextInt s = .next (s.send [errorBeat .unsupportedOperation (headerWord .nextInt)]) := by
  simp only [exec, execNextInt, if_neg h, raiseError_eq]

/-- The block and the beats of a generate command that runs its loop (R119, R120). -/
theorem emitMany_eq (k : Kind) (n : Int) :
    emitMany k n s =
      .next ((State.generate s.cur (valueCount n) s).2.send
        (valueBeats k (seqFlag n) ((State.generate s.cur (valueCount n) s).1.map (encodeRaw k s.cur)))) := rfl

theorem exec_random (imm : BitVec 32) : exec (.random imm) s = emitMany .float (countOperand imm) s := rfl

theorem exec_randomInt (imm : BitVec 32) (h : givesIntegers s.cur = true) :
    exec (.randomInt imm) s = emitMany .int (countOperand imm) s := by
  simp only [exec, execRandomInt, if_pos h]

theorem exec_randomInt_unsupported (imm : BitVec 32) (h : ¬givesIntegers s.cur = true) :
    exec (.randomInt imm) s = .next (s.send [errorBeat .unsupportedOperation (headerWord (.randomInt imm))]) := by
  simp only [exec, execRandomInt, if_neg h, raiseError_eq]

theorem exec_select (gid : BitVec 8) (g : CoreId) (e : coreOfGid gid = some g) (ne : g ≠ s.cur) :
    exec (.select gid) s = .next ((s.switchTo g).send [noValueBeat]) := by
  simp only [exec, execSelect, e, if_neg ne, answerNothing_eq]

theorem exec_select_same (gid : BitVec 8) (e : coreOfGid gid = some s.cur) :
    exec (.select gid) s = .next (s.send [noValueBeat]) := by
  simp only [exec, execSelect, e, if_true, answerNothing_eq]

theorem exec_select_unknown (gid : BitVec 8) (e : coreOfGid gid = none) :
    exec (.select gid) s = .next (s.send [noValueBeat]) := by
  simp only [exec, execSelect, e, answerNothing_eq]

theorem exec_restore (h : s.noseedOf s.cur = false ∧ s.snapvOf s.cur = true) :
    exec .restore s = .next ((s.restoreSnapshot s.cur).send [noValueBeat]) := by
  simp only [exec, execRestore, if_pos h, answerNothing_eq]

theorem exec_restore_noop (h : ¬(s.noseedOf s.cur = false ∧ s.snapvOf s.cur = true)) :
    exec .restore s = .next (s.send [noValueBeat]) := by
  simp only [exec, execRestore, if_neg h, answerNothing_eq]

theorem exec_char (ch : CharCode) :
    exec (.char ch) s = .next (s.send [errorBeat .illegalCommand (headerWord (.char ch))]) := rfl

end Sys2Proof.Machine
end

