-- ==== Sys2Proof/Laws/PerInstr.lean ====
section
/-! SUPPORT. The per-instruction family `EncodingRow`: the header word of every well-formed command matches a row of
spec/opcode_table.json with that command's mnemonic. -/

namespace Sys2Proof.Laws.EncodingRow

/-- The header word of a well-formed command is one of the words of a row of its own mnemonic (R83, R86). -/
def Statement (i : Instr) : Prop :=
  i.wf = true → ∃ row ∈ opcodeTable, row.mnemonic = mnemonicOf i ∧ rowMatches row (headerWord i) = true

/-- A row whose mask covers a whole field is matched by the words whose field holds the row's value. -/
theorem matches_of_and (r : OpcodeRow) (w : CmdWord) (h : w &&& r.mask = r.value) : rowMatches r w = true := by
  simp [rowMatches, h]

/-- The part of a word a mask of the form (opcode mask, argument mask) leaves. -/
theorem cmdWord_and (op mop : BitVec 8) (arg marg : BitVec 32) :
    cmdWord op arg &&& cmdWord mop marg = cmdWord (op &&& mop) (arg &&& marg) := by
  simp only [cmdWord]
  apply BitVec.eq_of_getLsbD_eq
  intro i _
  simp only [BitVec.getLsbD_and, BitVec.getLsbD_append]
  split <;> rfl

/-- A number below `2^k` has none of the bits of a mask that is zero below bit `k`. -/
theorem and_mask_eq_zero (x m : BitVec 32) (k : Nat) (hx : x.toNat < 2 ^ k) (hm : ∀ i < k, m.getLsbD i = false) :
    x &&& m = 0 := by
  apply BitVec.eq_of_getLsbD_eq
  intro i _
  rw [BitVec.getLsbD_and]
  by_cases h : i < k
  · simp [hm i h]
  · have : x.getLsbD i = false :=
      Nat.testBit_lt_two_pow (Nat.lt_of_lt_of_le hx (Nat.pow_le_pow_right (by decide) (by omega)))
    simp [this]

theorem seedNone : Statement .seedNone := fun _ =>
  ⟨⟨"SEED_NONE", 0x1000000000, 0xFFFFFFFFFF⟩, by decide, rfl, by decide⟩

theorem seedInt (imm : BitVec 32) : Statement (.seedInt imm) := fun _ =>
  ⟨⟨"SEED_INT", 0x1100000000, 0xFF00000000⟩, by decide, rfl, matches_of_and _ _ (by
    rw [headerWord, show (0xFF00000000 : CmdWord) = cmdWord 0xFF 0 by decide, cmdWord_and, show imm &&& 0 = 0 from BitVec.and_zero]; decide)⟩

theorem seedStr (cs : List CharCode) : Statement (.seedStr cs) := fun h =>
  ⟨⟨"SEED_STR", 0x1200000000, 0xFFFFFF0000⟩, by decide, rfl, matches_of_and _ _ (by
    have hl : cs.length ≤ 256 := by simpa [Instr.wf, textFits] using h
    have e : BitVec.ofNat 32 cs.length &&& 0xFFFF0000 = 0 :=
      and_mask_eq_zero _ _ 16 (by rw [BitVec.toNat_ofNat]; omega) (by decide)
    rw [headerWord, show (0xFFFFFF0000 : CmdWord) = cmdWord 0xFF 0xFFFF0000 by decide, cmdWord_and, e]; decide)⟩

theorem seedOther (t : BitVec 4) (arg : BitVec 32) : Statement (.seedOther t arg) := fun h => by
  have all : ∀ t : BitVec 4, 3 ≤ t.toNat → ∃ row ∈ opcodeTable, row.mnemonic = "SEED_OTHER" ∧
      (((1 : BitVec 4) ++ t) &&& row.mask.extractLsb' 32 8) = row.value.extractLsb' 32 8 ∧
      row.mask = cmdWord (row.mask.extractLsb' 32 8) 0 ∧ row.value = cmdWord (row.value.extractLsb' 32 8) 0 := by decide
  obtain ⟨row, hr, hm, h1, h2, h3⟩ := all t (by simpa [Instr.wf, tagIsOther] using h)
  refine ⟨row, hr, hm, matches_of_and _ _ ?_⟩
  rw [h2, h3, headerWord, cmdWord_and, h1, show arg &&& 0 = 0 from BitVec.and_zero]

theorem next : Statement .next := fun _ => ⟨⟨"NEXT", 0x2000000000, 0xFFFFFFFFFF⟩, by decide, rfl, by decide⟩

theorem nextInt : Statement .nextInt := fun _ => ⟨⟨"NEXT_INT", 0x2100000000, 0xFFFFFFFFFF⟩, by decide, rfl, by decide⟩

theorem random (imm : BitVec 32) : Statement (.random imm) := fun _ =>
  ⟨⟨"RANDOM", 0x2200000000, 0xFF00000000⟩, by decide, rfl, matches_of_and _ _ (by
    rw [headerWord, show (0xFF00000000 : CmdWord) = cmdWord 0xFF 0 by decide, cmdWord_and, show imm &&& 0 = 0 from BitVec.and_zero]; decide)⟩

theorem randomInt (imm : BitVec 32) : Statement (.randomInt imm) := fun _ =>
  ⟨⟨"RANDOM_INT", 0x2300000000, 0xFF00000000⟩, by decide, rfl, matches_of_and _ _ (by
    rw [headerWord, show (0xFF00000000 : CmdWord) = cmdWord 0xFF 0 by decide, cmdWord_and, show imm &&& 0 = 0 from BitVec.and_zero]; decide)⟩

theorem select (gid : BitVec 8) : Statement (.select gid) := fun _ =>
  ⟨⟨"SELECT", 0x3000000000, 0xFFFFFFFF00⟩, by decide, rfl, matches_of_and _ _ (by
    have e : gid.setWidth 32 &&& 0xFFFFFF00 = 0 :=
      and_mask_eq_zero _ _ 8 (by rw [BitVec.toNat_setWidth]; have := gid.isLt; omega) (by decide)
    rw [headerWord, show (0xFFFFFFFF00 : CmdWord) = cmdWord 0xFF 0xFFFFFF00 by decide, cmdWord_and, e]; decide)⟩

theorem restore : Statement .restore := fun _ => ⟨⟨"RESTORE", 0x3100000000, 0xFFFFFFFFFF⟩, by decide, rfl, by decide⟩

theorem char (ch : CharCode) : Statement (.char ch) := fun _ =>
  ⟨⟨"CHAR", 0x8000000000, 0xFFFFFF0000⟩, by decide, rfl, matches_of_and _ _ (by
    have e : ch.setWidth 32 &&& 0xFFFF0000 = 0 :=
      and_mask_eq_zero _ _ 16 (by rw [BitVec.toNat_setWidth]; have := ch.isLt; omega) (by decide)
    rw [headerWord, show (0xFFFFFF0000 : CmdWord) = cmdWord 0xFF 0xFFFF0000 by decide, cmdWord_and, e]; decide)⟩

end Sys2Proof.Laws.EncodingRow
end

