-- ==== Sys2Proof/Laws/Reset.lean ====
section
/-! SUPPORT. What a reset in the middle of a command leaves (spec/70_reset_and_hazards.md R331): the fields of the state
cut short, and the reset during a step that answers or waits. -/

namespace Sys2Proof.Machine

variable (s t : State) (k n : Nat)

@[simp] theorem cutShort_cur : (s.cutShort t k n).cur = s.cur := rfl
@[simp] theorem cutShort_cmd : (s.cutShort t k n).cmd = s.cmd := rfl
@[simp] theorem cutShort_gen : (s.cutShort t k n).gen = s.gen := rfl
@[simp] theorem cutShort_snap : (s.cutShort t k n).snap = s.snap := rfl
@[simp] theorem cutShort_boot : (s.cutShort t k n).boot = s.boot := rfl
@[simp] theorem cutShort_resp : (s.cutShort t k n).resp = s.resp ++ (s.beatsSince t).take k := rfl
@[simp] theorem cutShort_ent : (s.cutShort t k n).ent = s.ent.drop (min n (t.entCount - s.entCount)) := rfl
@[simp] theorem cutShort_entCount : (s.cutShort t k n).entCount = s.entCount + min n (t.entCount - s.entCount) := rfl

/-- A reset during a step that answers cuts that step short and then runs the reset sequence. -/
theorem resetDuring_of_next {s t : State} (h : step s = .next t) :
    s.resetDuring k n = (s.cutShort t k n).hardReset := by
  simp only [State.resetDuring, h]

/-- A command that has done nothing yet leaves nothing when it is cut short. -/
theorem cutShort_self : s.cutShort s k n = s := by
  simp [State.cutShort, State.beatsSince]

/-- A reset while the block waits for words is the reset sequence (R335). -/
theorem resetDuring_waiting {s : State} (h : decode s.cmd = .waiting) : s.resetDuring k n = s.hardReset := by
  rw [resetDuring_of_next k n (show step s = .next s by simp only [step, h]), cutShort_self]

end Sys2Proof.Machine
end

