-- ==== Sys2Proof/Machine/Assembler.lean ====
section
/-! DEFINITION. The host's side of the command port: the assembler lines of spec/30_encoding.md R87, the
pseudo-instructions of R88, and how a host maps the library's calls onto commands (R89). No step of the machine uses
them. A line or a call that no command expresses answers `none`: it is the host's to resolve (R89). -/

namespace Sys2Proof.Machine

/-- An assembler line with its operands read as numbers (R87). -/
inductive AsmLine where
  | seedNone
  | seedInt (v : Int)
  | seedStr (text : List Nat)
  | seedOther (t : Nat)
  | next
  | nextInt
  | random (n : Int)
  | randomInt (n : Int)
  | selectCore (g : CoreId)
  | selectNumber (gid : Nat)
  | restore
  | charWord (code : Nat)
  deriving DecidableEq, Repr

/-- A pseudo-instruction (R88). -/
inductive PseudoLine where
  | seed
  | seedNumber (v : Int)
  | seedText (text : List Nat)
  | random
  | randomInt
  | setgen (g : CoreId)
  | setgenUnknown
  deriving DecidableEq, Repr

/-- A seed value as the library's caller supplies it (R89). -/
inductive CallSeed where
  | absent
  | integer (v : Int)
  | text (codes : List Nat)
  | other
  deriving DecidableEq, Repr

/-- A call of the library's contract (R89). An absent count is `none`; a name is the core it names, or `none` when the
host does not know it. -/
inductive HostCall where
  | seed (v : CallSeed)
  | random (n : Option Int)
  | randomInt (n : Option Int)
  | next
  | nextInt
  | setGenerator (name : Option CoreId)
  deriving DecidableEq, Repr

/-- The mnemonic of a core (spec/00_scope.md R6). -/
def coreName : CoreId → String
  | .dflt => "DEFAULT"
  | .parkMiller => "PARKMILLER"
  | .xorshift32 => "XORSHIFT32"
  | .xorwow => "XORWOW"
  | .kiss => "KISS"
  | .taus113 => "TAUS113"
  | .coveyou => "COVEYOU"
  | .knuthran2 => "KNUTHRAN2"
  | .r250 => "R250"
  | .gfsr4 => "GFSR4"
  | .tt800 => "TT800"
  | .mt19937 => "MT19937"
  | .dx1597 => "DX1597"
  | .mrg5 => "MRG5"
  | .swb2712 => "SWB2712"
  | .philox => "PHILOX"

/-- The characters of a text, if it has at most `MAX_SEED_LEN` codes of 16 bits (R87). -/
def asmText (text : List Nat) : Option (List CharCode) :=
  if text.length ≤ Config.maxSeedLen ∧ (∀ c ∈ text, c < 2 ^ 16) then some (text.map (BitVec.ofNat 16)) else none

/-- The command a line assembles to; its words are `encode` of it (R87). A negative seed `v` stands for `v + 2^32`. -/
def assembleLine : AsmLine → Option Instr
  | .seedNone => some .seedNone
  | .seedInt v => if -2 ^ 31 ≤ v ∧ v < 2 ^ 32 then some (.seedInt (BitVec.ofInt 32 v)) else none
  | .seedStr text => (asmText text).map .seedStr
  | .seedOther t => if 3 ≤ t ∧ t ≤ 15 then some (.seedOther (BitVec.ofNat 4 t) 0) else none
  | .next => some .next
  | .nextInt => some .nextInt
  | .random n => if -2 ^ 31 ≤ n ∧ n < 2 ^ 31 then some (.random (BitVec.ofInt 32 n)) else none
  | .randomInt n => if -2 ^ 31 ≤ n ∧ n < 2 ^ 31 then some (.randomInt (BitVec.ofInt 32 n)) else none
  | .selectCore g => some (.select (BitVec.ofNat 8 g.idx.val))
  | .selectNumber gid => if gid ≤ 255 then some (.select (BitVec.ofNat 8 gid)) else none
  | .restore => some .restore
  | .charWord code => if code < 2 ^ 16 then some (.char (BitVec.ofNat 16 code)) else none

/-- The words of a line (R87): ten hexadecimal digits each. -/
def assembleWords (l : AsmLine) : Option (List CmdWord) := (assembleLine l).map encode

/-- The line a pseudo-instruction expands to (R88). -/
def expandPseudo : PseudoLine → AsmLine
  | .seed => .seedNone
  | .seedNumber v => .seedInt v
  | .seedText text => .seedStr text
  | .random => .random 1
  | .randomInt => .randomInt 1
  | .setgen g => .selectCore g
  | .setgenUnknown => .selectNumber 255

/-- A count the library is called with, absent sent as 1 (R89); counts beyond 32 bits are not expressible. -/
def callCount (n : Option Int) : Option (BitVec 32) :=
  let m := n.getD 1
  if -2 ^ 31 ≤ m ∧ m < 2 ^ 31 then some (BitVec.ofInt 32 m) else none

/-- The command a call is mapped to (R89). An integer seed is masked to 32 bits; a text over `MAX_SEED_LEN` is the
host's to resolve. -/
def hostCommand : HostCall → Option Instr
  | .seed .absent => some .seedNone
  | .seed (.integer v) => some (.seedInt (BitVec.ofInt 32 v))
  | .seed (.text codes) => (asmText codes).map .seedStr
  | .seed .other => some (.seedOther 3 0)
  | .random n => (callCount n).map .random
  | .randomInt n => (callCount n).map .randomInt
  | .next => some .next
  | .nextInt => some .nextInt
  | .setGenerator (some g) => some (.select (BitVec.ofNat 8 g.idx.val))
  | .setGenerator none => some (.select 255)

end Sys2Proof.Machine
end

