-- ==== Sys2Proof/Tests/Slice0.lean ====
section
/-! SUPPORT. Small tests: the refused ill-formed terms, one word written out from spec/30_encoding.md for each constructor,
one step of each instruction against spec/95_test_vectors.md, and for each obligation with hypotheses a concrete state and
operands that meet them all. -/

namespace Sys2Proof.Tests

open Sys2Proof.Machine

-- WellFormed refuses what the encoding cannot express (R82, R84).

theorem test_wf_refuses_text_of_257 : Instr.wf (.seedStr (List.replicate 257 0x61)) = false := by
  simp only [Instr.wf, textFits, List.length_replicate]; decide
theorem test_wf_takes_text_of_256 : Instr.wf (.seedStr (List.replicate 256 0x61)) = true := by
  simp only [Instr.wf, textFits, List.length_replicate]; decide
theorem test_wf_refuses_tag_2 : Instr.wf (.seedOther 2 0) = false := by decide
theorem test_wf_takes_tag_3 : Instr.wf (.seedOther 3 0) = true := by decide

-- A word of each constructor, written out from R81 to R83 (the words of V500 to V506 and P1 to P3).

theorem test_decode_seedNone : decode [0x1000000000] = .instr .seedNone [] := by decide
theorem test_decode_seedInt : decode [0x11075BCD15] = .instr (.seedInt 123456789) [] := by decide
theorem test_decode_seedStr :
    decode [0x1200000001, 0x8000000061, 0x2000000000] = .instr (.seedStr [0x61]) [0x2000000000] := by decide
theorem test_decode_seedOther_first : decode [0x1300000000] = .instr (.seedOther 3 0) [] := by decide
theorem test_decode_seedOther_last : decode [0x1FDEADBEEF] = .instr (.seedOther 15 0xDEADBEEF) [] := by decide
theorem test_decode_next : decode [0x2000000000] = .instr .next [] := by decide
theorem test_decode_nextInt : decode [0x2100000000] = .instr .nextInt [] := by decide
theorem test_decode_random : decode [0x2200000002] = .instr (.random 2) [] := by decide
theorem test_decode_randomInt : decode [0x2380000000] = .instr (.randomInt 0x80000000) [] := by decide
theorem test_decode_select : decode [0x300000000E] = .instr (.select 14) [] := by decide
theorem test_decode_restore : decode [0x3100000000] = .instr .restore [] := by decide
theorem test_decode_char : decode [0x8000000061] = .instr (.char 0x61) [] := by decide

/-- The seventeen illegal words of V505, but for the CHAR word. -/
theorem test_decode_illegal : ∀ w ∈ ([0x0000000000, 0x0F00000000, 0x2400000000, 0x3200000000, 0x7FFFFFFFFF, 0x8100000000,
    0xFFFFFFFFFF, 0x1000000001, 0x2080000000, 0x2100000100, 0x3100010000, 0x3000000100, 0x3080000001, 0x1200000101,
    0x1200010000, 0x12FFFF0001] : List CmdWord), ∃ why, decode [w] = .illegal why w [] := by
  intro w hw
  simp only [List.mem_cons, List.not_mem_nil, or_false] at hw
  rcases hw with rfl | rfl | rfl | rfl | rfl | rfl | rfl | rfl | rfl | rfl | rfl | rfl | rfl | rfl | rfl | rfl <;>
    first
      | exact ⟨.unusedOpcode, by decide⟩
      | exact ⟨.reservedField, by decide⟩
      | exact ⟨.textTooLong, by decide⟩

theorem test_decodeTableWord_select : decodeTableWord 40 0x300000000E = some (.select 14) := by decide
theorem test_decodeTableWord_seedStr : decodeTableWord 40 0x1200000000 = some (.seedStr []) := by decide

-- One step.

/-- Reset with `E0 = 7`, entropy samples `ent` to come, core `g` current and the words `ws` at the command port. -/
def start (g : CoreId) (ent : List Word) (ws : List CmdWord) : State :=
  { State.resetWith 7 ent 1 with cur := g, cmd := ws }

/-- The state after one step; `s` itself would a step stop. -/
def after (s : State) : State :=
  match step s with
  | .next t => t
  | .fault _ => s
  | .refused _ => s

/-- V512: the time seed of PARKMILLER from the sample 0xFFFFFFFF is 1. -/
theorem test_seedNone : (after (start .parkMiller [0xFFFFFFFF] [0x1000000000])).gen.parkMiller.x = 1 := by decide

/-- V106 (state before output 1): PARKMILLER seeded with 123456789. -/
theorem test_seedInt :
    let t := after (start .parkMiller [] [0x11075BCD15])
    t.gen.parkMiller.x = 123456789 ∧ t.snap.parkMiller.x = 123456789 ∧ t.lsKind = .int ∧ t.lsInt = 123456789 := by decide

/-- V211: XORSHIFT32 seeded with "a". -/
theorem test_seedStr :
    let t := after (start .xorshift32 [] [0x1200000001, 0x8000000061])
    t.gen.xorshift32.x = 25955494 ∧ t.lsLen = 1 ∧ t.lsStr[0] = 0x61 ∧ t.resp = [0x010000000000000000] := by decide

/-- V506: a malformed second character fails the whole command. -/
theorem test_seedStr_malformed :
    (after (start .xorshift32 [] [0x1200000002, 0x8000000061, 0x2000000000])).resp = [0x310000001200000002] := by decide

/-- V503: the ignored `ARG` is repeated in the error beat. -/
theorem test_seedOther : (after (start .parkMiller [] [0x1FDEADBEEF])).resp = [0x110000001FDEADBEEF] := by decide

/-- V504: the first output of `xs128_init_int(7)`, normalised. -/
theorem test_next : (after (start .dflt [] [0x2000000000])).resp = [0x093F9524AE94000000] := by decide

/-- S1: PARKMILLER from `x = 1` gives 16807. -/
theorem test_nextInt :
    (after { start .parkMiller [] [0x2100000000] with gen := { Gens.zero with parkMiller := ⟨1⟩ } }).resp =
      [0x0500000000000041A7] := by decide

/-- V504: DEFAULT gives no raw integers. -/
theorem test_nextInt_default : (after (start .dflt [] [0x2100000000])).resp = [0x210000002100000000] := by decide

/-- V4: XORSHIFT32 from 2463534242, `RANDOM 2`. -/
theorem test_random :
    (after { start .xorshift32 [] [0x2200000002] with gen := { Gens.zero with xorshift32 := ⟨2463534242⟩ } }).resp =
      [0x0A3FC58FA6B1800000, 0x0B3FE29B596F400000] := by decide

/-- V510: with `RECALC = RECALC_FREQ` the sample 9 is taken first; the count is 1 afterwards. -/
theorem test_randomInt_at_limit :
    let s := { start .xorshift32 [9] [0x2300000001] with noseed := Vector.replicate 16 true }
    let t := after (s.setRecalc .xorshift32 65536)
    t.resp = [0x050000000000252129] ∧ t.recalcOf .xorshift32 = 1 ∧ t.ent = [] := by decide

/-- V500: a count of -2^31 is one scalar. -/
theorem test_randomInt_negative :
    (after { start .parkMiller [] [0x2380000000] with gen := { Gens.zero with parkMiller := ⟨1622650073⟩ } }).resp =
      [0x05000000003AB50C2A] := by decide

/-- P3, command 8: with `LASTSEED` absent, XORSHIFT32 is seeded from the sample 9. -/
theorem test_select :
    let t := after (start .dflt [9] [0x3000000002])
    t.cur = .xorshift32 ∧ t.gen.xorshift32.x = 9 ∧ t.instOf .xorshift32 = true ∧ t.noseedOf .xorshift32 = true ∧
      t.ent = [] := by decide

/-- V501: SELECT 16 is accepted and does nothing. -/
theorem test_select_unknown :
    let t := after (start .dflt [9] [0x3000000010])
    t.cur = .dflt ∧ t.ent = [9] ∧ t.resp = [0x010000000000000000] := by decide

/-- P1, command 6: RESTORE brings `x = 1` back. -/
theorem test_restore :
    (after { start .parkMiller [] [0x3100000000] with
              gen := { Gens.zero with parkMiller := ⟨984943658⟩ }
              snap := { Gens.zero with parkMiller := ⟨1⟩ }
              snapv := Vector.replicate 16 true }).gen.parkMiller.x = 1 := by decide

/-- V505: a CHAR word as a header. -/
theorem test_char : (after (start .dflt [] [0x8000000061])).resp = [0x310000008000000061] := by decide

-- The cores: output 1 after `SEED_INT 123456789`, or the published check value (V106 to V162).

theorem test_kiss : (kissStep (kissInitInt 123456789)).1 = 3859550557 := by decide
theorem test_xorwow : (xorwowStep (xorwowInitInt 123456789)).1 = 246875399 := by decide
theorem test_taus113 : (taus113Step (taus113InitInt 123456789)).1 = 3055076330 := by decide
theorem test_coveyou : (coveyouStep (coveyouInitInt 123456789)).1 = 2907441914 := by decide
theorem test_knuthran2 : (knuthran2Step (knuthran2InitInt 123456789)).1 = 416321524 := by decide
theorem test_tt800 : (tt800Step (fillBuffer (by decide) redNone (bootSeedInt 123456789)).1).1 = 2353726866 := by decide
theorem test_swb2712 : (swb2712Step (swb2712Fill (bootSeedInt 123456789)).1).1 = 360265451 := by decide
theorem test_mrg5 : (mrg5Step (fillBuffer (by decide) redM31 (bootSeedInt 123456789)).1).1 = 876989419 := by decide
theorem test_philox : (philoxStep (philoxInitInt 123456789)).1 = 599653874 := by decide

/-- V51, V63, V69: the digit method. -/
theorem test_modmulDigits :
    modmulDigits 2147483646 16807 2147483647 = 2147466840 ∧ modmulDigits 4294967295 1812433253 4294967296 = 2482534043 ∧
      modmulDigits 3999999999 3999999999 4294967296 = 2573840385 := by decide

/-- V401, V405, V409, V415, V416: the normalised outputs nearest to the ends, and one in between. -/
theorem test_norm :
    norm .kiss 1 = 0x3DF0000000000000 ∧ norm .kiss 4294967295 = 0x3FEFFFFFFFE00000 ∧
      norm .parkMiller 1 = 0x3E00000000200000 ∧ norm .parkMiller 2147483646 = 0x3FEFFFFFFFC00000 ∧
      norm .parkMiller 1043618065 = 0x3FDF1A2C88BE3459 := by decide

-- Witnesses: the hypotheses of each obligation met together, clause by clause at the ends of their ranges.

theorem witness_EncodedCommandDecodes :
    Instr.wf (.seedStr (List.replicate 256 0xFFFF)) = true ∧ Instr.wf (.seedOther 3 5) = true ∧
      Instr.wf (.seedOther 15 0xFFFFFFFF) = true ∧ Instr.wf (.char 0xFFFF) = true := by
  refine ⟨?_, by decide⟩
  simp only [Instr.wf, textFits, List.length_replicate]; decide

theorem witness_DecodedCommandIsItsWords :
    decode [0x1200000001, 0x8000000061, 0x2000000000] = .instr (.seedStr [0x61]) [0x2000000000] := by decide

/-- Clause (a) at both ends of each range, (b), (c) for each opcode with a field that must be 0, (d) at 257. -/
theorem witness_IllegalCommandsChangeNothing_header :
    let op := fun w : CmdWord => (opField w).toNat
    let arg := fun w : CmdWord => (argField w).toNat
    op 0 ≤ 0x0F ∧ op 0x0F00000000 = 0x0F ∧ op 0x2400000000 = 0x24 ∧ op 0x2F00000000 = 0x2F ∧ op 0x3200000000 = 0x32 ∧
      op 0x7F00000000 = 0x7F ∧ op 0x8100000000 = 0x81 ∧ 0x81 ≤ op 0xFFFFFFFFFF ∧ op 0x8000000061 = 0x80 ∧
      (op 0x1000000001 = 0x10 ∧ arg 0x1000000001 ≠ 0) ∧ (op 0x2080000000 = 0x20 ∧ arg 0x2080000000 ≠ 0) ∧
      (op 0x2100000100 = 0x21 ∧ arg 0x2100000100 ≠ 0) ∧ (op 0x3100010000 = 0x31 ∧ arg 0x3100010000 ≠ 0) ∧
      (op 0x3000000100 = 0x30 ∧ 2 ^ 8 ≤ arg 0x3000000100) ∧ (op 0x1200000101 = 0x12 ∧ 256 < arg 0x1200000101) := by
  decide

/-- The second clause: a wrong opcode (V506), a character code of 17 bits (V506), and a text of 256 characters. -/
theorem witness_IllegalCommandsChangeNothing_text :
    ((opField 0x1200000002).toNat = 0x12 ∧ (argField 0x1200000002).toNat ≤ 256 ∧
      ([0x8000000061, 0x2000000000] : List CmdWord).length = (argField 0x1200000002).toNat ∧
      ∃ w ∈ ([0x8000000061, 0x2000000000] : List CmdWord), (opField w).toNat ≠ 0x80 ∨ 2 ^ 16 ≤ (argField w).toNat) ∧
    (∃ w ∈ ([0x8000000061, 0x8000010062] : List CmdWord), (opField w).toNat ≠ 0x80 ∨ 2 ^ 16 ≤ (argField w).toNat) ∧
    ((argField 0x1200000100).toNat ≤ 256 ∧
      (List.replicate 256 (0x2000000000 : CmdWord)).length = (argField 0x1200000100).toNat) := by
  refine ⟨⟨by decide, by decide, by decide, 0x2000000000, by decide, by decide⟩, ⟨0x8000010062, by decide, by decide⟩,
    by decide, ?_⟩
  rw [List.length_replicate]; decide

theorem witness_TextTakesExactlyItsWords :
    (opField 0x1200000002).toNat = 0x12 ∧ (argField 0x1200000002).toNat ≤ 256 ∧
      ([0x8000000061, 0] : List CmdWord).length = (argField 0x1200000002).toNat ∧
      ([0x8000000061] : List CmdWord).length < (argField 0x1200000002).toNat := by decide

theorem witness_OpcodeRowsAreDisjoint :
    ∃ r ∈ opcodeTable, rowMatches r 0x14DEADBEEF = true :=
  ⟨⟨"SEED_OTHER", 0x1400000000, 0xFC00000000⟩, by decide, by decide⟩

theorem witness_StepRunsTheDecodedCommand :
    decode (start .dflt [] [0x2200000002, 0x2000000000]).cmd = .instr (.random 2) [0x2000000000] := by decide

theorem witness_SeedStrSeedsTheCurrentCore :
    ([] : List CharCode).length ≤ 256 ∧ (List.replicate 256 (0xFFFF : CharCode)).length ≤ 256 := by
  rw [List.length_replicate]; decide

theorem witness_SeedOtherOnlySetsTheMode : 3 ≤ (3 : BitVec 4).toNat ∧ 3 ≤ (15 : BitVec 4).toNat := by decide

theorem witness_NextIntGivesOneRawWord : (start .philox [] []).cur ≠ .dflt := by decide

theorem witness_DefaultGivesNoIntegers : (start .dflt [] []).cur = .dflt := by decide

/-- The three clauses: deterministic; ambient below the limit; ambient at it. -/
theorem witness_BookReseedsEveryRecalcFreqValues :
    (start .kiss [] []).noseedOf .kiss = false ∧
    ((start .dflt [] []).noseedOf .dflt = true ∧ ((start .dflt [] []).recalcOf .dflt).toNat ≠ Config.recalcFreq) ∧
    (((start .dflt [9] []).setRecalc .dflt 65536).noseedOf .dflt = true ∧
      (((start .dflt [9] []).setRecalc .dflt 65536).recalcOf .dflt).toNat = Config.recalcFreq) := by decide

theorem witness_CountOperandIsSigned :
    (2 ≤ (2 : BitVec 32).toNat ∧ (2 : BitVec 32).toNat < 2 ^ 31) ∧
    (2 ≤ (0x7FFFFFFF : BitVec 32).toNat ∧ (0x7FFFFFFF : BitVec 32).toNat < 2 ^ 31) ∧ (0 : BitVec 32).toNat ≤ 1 ∧
    (1 : BitVec 32).toNat ≤ 1 ∧ 2 ^ 31 ≤ (0x80000000 : BitVec 32).toNat ∧ 2 ^ 31 ≤ (0xFFFFFFFF : BitVec 32).toNat := by
  decide

theorem witness_RandomIntGivesItsCountOfWords : (start .mrg5 [] []).cur ≠ .dflt := by decide

theorem witness_NextIsRandomOneWhenDeterministic :
    (start .kiss [] []).noseedOf (start .kiss [] []).cur = false ∧ (start .kiss [] []).cur ≠ .dflt := by decide

theorem witness_SelectSwitchesAndReseeds :
    (15 : BitVec 8).toNat = CoreId.philox.idx.val ∧ CoreId.philox ≠ (start .dflt [] []).cur := by decide

theorem witness_SelectOfCurrentOrUnknownIsNoOp :
    (0 : BitVec 8).toNat = (start .dflt [] []).cur.idx.val ∧ (15 : BitVec 8).toNat = (start .philox [] []).cur.idx.val ∧
      16 ≤ (16 : BitVec 8).toNat ∧ 16 ≤ (255 : BitVec 8).toNat := by decide

theorem witness_EntropyIsSampledExactlyWhen :
    let s := (start .dflt [9] []).setRecalc .dflt 65536
    (s.recalcOf s.cur).toNat ≤ Config.recalcFreq := by decide

theorem witness_OnlyTheCurrentCoreIsTouched :
    exec .next (start .kiss [] []) =
      .next ((State.stepCore (start .kiss [] []) .kiss).send
        [valueBeat .float false true (encodeRaw .float .kiss ((start .kiss [] []).rawOf .kiss))]) := rfl

theorem witness_SeedDeterminesTheStream :
    (start .kiss [] []).cur = (start .kiss [9] [0]).cur ∧ ([0x61] : List CharCode).length ≤ 256 ∧
      (∃ t, exec (.seedInt 5) (start .kiss [] []) = .next t) ∧ (∃ t, exec (.seedInt 5) (start .kiss [9] [0]) = .next t) ∧
      (∃ t, exec (.seedStr [0x61]) (start .kiss [] []) = .next t) ∧
      ∃ t, exec (.seedStr [0x61]) (start .kiss [9] [0]) = .next t :=
  ⟨rfl, by decide, ⟨_, rfl⟩, ⟨_, rfl⟩, ⟨_, rfl⟩, ⟨_, rfl⟩⟩

/-- A seeding, an integer or a text, and a run of generate commands after it. -/
theorem witness_RestoreReplaysTheSeeding :
    (∃ t u, exec (.seedInt 5) (start .kiss [] []) = .next t ∧ (∀ i ∈ [Instr.next, .nextInt], isGenerate i = true) ∧
      runInstrs [.next, .nextInt] t = some u) ∧
    ∃ t u, ([0x61] : List CharCode).length ≤ 256 ∧ exec (.seedStr [0x61]) (start .kiss [] []) = .next t ∧
      runInstrs [.next, .nextInt] t = some u :=
  ⟨⟨_, _, rfl, by decide, rfl⟩, ⟨_, _, by decide, rfl, rfl⟩⟩

theorem witness_ReselectReplaysTheSeeding :
    (∃ t u, exec (.seedInt 5) (start .kiss [] []) = .next t ∧ (∀ i ∈ [Instr.next, .nextInt], isGenerate i = true) ∧
      runInstrs [.next, .nextInt] t = some u) ∧ CoreId.tt800 ≠ (start .kiss [] []).cur :=
  ⟨⟨_, _, rfl, by decide, rfl⟩, by decide⟩

theorem witness_SeedThenSelectIsSelectThenSeed : CoreId.kiss ≠ (start .dflt [] []).cur := by decide

/-- One core for each clause, and the largest `GID` the scalar clause of SeedStrSeedsTheCurrentCore speaks of. -/
theorem witness_EmptyTextIsSeedZero :
    (CoreId.gfsr4 ≠ .mt19937 ∧ CoreId.gfsr4 ≠ .philox) ∧ (CoreId.philox = .mt19937 ∨ CoreId.philox = .philox) ∧
      CoreId.knuthran2.idx.val ≤ 7 := by decide

/-- A reset after the second of the three beats of a RANDOM (R331): two beats stay, the command and the state are gone. -/
theorem test_reset_in_mid_command :
    let s := start .parkMiller [] [0x2200000003]
    (after s).resp.length = 3 ∧ (s.resetDuring 2 0).resp = (after s).resp.take 2 ∧ (s.resetDuring 2 0).cmd = [] ∧
      (s.resetDuring 2 0).cur = .dflt := by decide

/-- A reset while the characters of a SEED_STR are missing (R335). -/
theorem test_reset_ends_waiting :
    (start .kiss [5] [0x1200000002]).resetDuring 0 0 = (start .kiss [5] [0x1200000002]).hardReset :=
  resetDuring_waiting 0 0 (by decide)

/-- A step that sends a beat and takes a sample, so that every case of `k` and `n` occurs. -/
theorem witness_ResetSequenceIgnoresTheStateBefore :
    ∃ t, step (start .kiss [9] [0x1000000000]) = .next t ∧
      1 ≤ t.entCount - (start .kiss [9] [0x1000000000]).entCount ∧ t.resp.length = 1 :=
  ⟨_, rfl, by decide, by decide⟩

/-- Two states alike that differ in another core, in BOOT, in a constructed bit and in the idle `LS_INT`, and a step. -/
theorem witness_OtherCoresAreNeverObserved :
    let s := start .dflt [9] [0x2000000000]
    let t : State := { s with gen := { s.gen with kiss := ⟨1, 2, 3, 4, true⟩ }, boot := ⟨1, 2, 3, 4⟩, lsInt := 77,
                              inst := Vector.replicate 16 true }
    Alike s t ∧ s ≠ t ∧ ∃ s', step s = .next s' :=
  ⟨⟨rfl, rfl, rfl, rfl, rfl, rfl, fun _ => rfl, rfl, rfl, rfl, rfl⟩,
   fun e => absurd (congrArg State.lsInt e) (by decide), ⟨_, rfl⟩⟩

/-- A state right after reset with a command waiting: it meets the invariants and takes a step. -/
theorem witness_StepKeepsTheInvariants :
    Inv (start .dflt [] [0x2000000000]) ∧ ∃ t, step (start .dflt [] [0x2000000000]) = .next t := by
  refine ⟨?_, ⟨_, rfl⟩⟩
  have only : ∀ g, (start .dflt [] [0x2000000000]).instOf g = true → g = .dflt := by
    intro g; cases g <;> first | (intro _; rfl) | (intro h; exact absurd h (by decide))
  constructor
  · rfl
  · intro g h; rw [only g h]; trivial
  · intro g h; rw [only g h]; intro _; trivial
  · intro g h; rw [only g h]; decide
  · intro g h; rw [only g h]; intro _; rfl
  · intro g h; rw [only g h]; rfl
  · rfl
  · intro h; exact absurd (only _ h) (by decide)

theorem witness_NormIsTheNearestBinary64 :
    ((16807 : Word).toNat < modulus .parkMiller ∧ (0 : Data64).toNat < 0x7FF0000000000000 ∧
      (0 : Data64) ≠ norm .parkMiller 16807) ∧
    ((0xFFFFFFFF : Word).toNat < modulus .kiss ∧ (0x7FEFFFFFFFFFFFFF : Data64).toNat < 0x7FF0000000000000 ∧
      (0x7FEFFFFFFFFFFFFF : Data64) ≠ norm .kiss 0xFFFFFFFF) := by decide

/-- A legal state for each core whose registers have a range, and raw words at both ends. -/
theorem witness_OutputsLieInTheirRanges :
    let G : Gens := { Gens.zero with parkMiller := ⟨1⟩, xorshift32 := ⟨1⟩, kiss := kissInitInt 0, coveyou := ⟨2⟩,
                                     knuthran2 := ⟨0, 1⟩ }
    legalCore .parkMiller G ∧ legalCore .knuthran2 G ∧ legalCore .mrg5 G ∧ legalCore .dflt G ∧
      (0 : Word).toNat < modulus .parkMiller ∧ (0xFFFFFFFF : Word).toNat < modulus .kiss ∧
      (2147483646 : Word).toNat < modulus .mrg5 ∧ (0xFFFFFFFF : Word) ≠ 0 := by
  refine ⟨⟨by decide, by decide⟩, ⟨by decide, by decide, by decide⟩, fun i => ?_, trivial, by decide, by decide, by decide, by decide⟩
  show (Vector.replicate 5 (0 : Word))[i].toNat < 2147483647
  simp

/-- For DigitMethodIsExact, PipelineEndsWithTheProduct and RowsOnTheFlyGiveTheProduct: both ends of every range. -/
theorem witness_modmul_operands :
    (0 < 2 ^ 32 ∧ 16807 < 2 ^ 32 ∧ 2 ^ 31 - 1 ≤ 2147483647 ∧ 2147483647 ≤ 2 ^ 32) ∧
    (4294967295 < 2 ^ 32 ∧ 2 ^ 31 - 1 ≤ 4294967296 ∧ 4294967296 ≤ 2 ^ 32) := by decide

theorem witness_AddmodIsTheResidueOfTheSum :
    (2 ^ 31 - 1 ≤ 2147483647 ∧ 2147483647 ≤ 2 ^ 32 ∧ 0 < 2147483647 ∧ 2147483646 < 2147483647) ∧
    (2 ^ 31 - 1 ≤ 4294967296 ∧ 4294967296 ≤ 2 ^ 32 ∧ 4294967295 < 4294967296) := by decide

/-- Lags 1 and `K - 1` of a buffer whose pointer stands at its end. -/
theorem witness_PushMakesEveryWordOneLagOlder :
    let b : Buffer 5 := ⟨#v[10, 11, 12, 13, 14], 4⟩
    (1 ≤ 1 ∧ 1 < 5) ∧ (1 ≤ 4 ∧ 4 < 5) ∧ b.p.val + 1 = 5 := by decide

theorem witness_FillWritesTheDrawsInOrder : 0 < 5 ∧ 4 < 5 := by decide

theorem witness_ParkMillerStaysInRange :
    (1 ≤ (1 : BitVec 31).toNat ∧ (1 : BitVec 31).toNat ≤ Config.m31 - 1) ∧
    (1 ≤ (2147483646 : BitVec 31).toNat ∧ (2147483646 : BitVec 31).toNat ≤ Config.m31 - 1) := by decide

theorem witness_Xorshift32IsNeverZero : (Xorshift32.mk 1).x ≠ 0 := by decide

theorem witness_KissKeepsItsCarryExact : (Kiss.mk 0 1 0x7FFFFFFF 0x7FFFFFFF true).y ≠ 0 := by decide

theorem witness_CoveyouStaysTwoModFour :
    (Coveyou.mk 2).x.toNat % 4 = 2 ∧ (Coveyou.mk 0xFFFFFFFE).x.toNat % 4 = 2 := by decide

theorem witness_Knuthran2IsNeverBothZero :
    let ok := fun st : Knuthran2 => st.x0.toNat < Config.m31 ∧ st.x1.toNat < Config.m31 ∧ ¬(st.x0 = 0 ∧ st.x1 = 0)
    ok ⟨0, 1⟩ ∧ ok ⟨2147483646, 0⟩ := by decide

theorem witness_LinearRecurrencesModuloM31 :
    ∀ i : Fin 1597, (Buffer.mk (Vector.replicate 1597 (2147483646 : Word)) 0).buf[i].toNat < Config.m31 := by
  intro i; simp

theorem witness_XorLagCoresStep : (1 : Fin 250) ≠ 0 ∧ (9688 : Fin 9689) ≠ 0 := by decide

theorem witness_Swb2712BorrowIsExact : (26 : Fin 27) ≠ 0 := by decide

theorem witness_TwistedCoresStep : (24 : Fin 25) ≠ 0 ∧ (623 : Fin 624) ≠ 0 := by decide

theorem witness_Mt19937SeedingRecurrence : 0 + 1 < 624 ∧ 622 + 1 < 624 := by decide

theorem witness_PhiloxGivesItsBlockInOrder :
    ({ Gens.zero with philox := philoxInitInt 1 } : Gens).philox.idx = 4 ∧ 0 < 4 ∧ 3 < 4 := by decide

end Sys2Proof.Tests
end

section
/-! The legal registers of spec/10_state.md R39, core by core: every seeding writes legal values and every step of the
core keeps them. -/

namespace Sys2Proof.Machine

-- Residues (R140, R149)

theorem addmod_lt {a b m : Nat} (h : a + b < 2 * m) : addmod a b m < m := by
  unfold addmod; split <;> omega

theorem charCode_toNat_lt_m31 (c : CharCode) : c.toNat < Config.m31 := by
  have := c.isLt; simp only [Config.m31]; omega

-- PARKMILLER (R176 to R179)

/-- The residue of PARKMILLER is in [1, M31 - 1] (R39, R178). -/
def ParkMiller.Legal (st : ParkMiller) : Prop := 1 ≤ st.x.toNat ∧ st.x.toNat ≤ Config.m31 - 1

/-- A residue register is legal when it is written as 1 in place of 0 (R176, R179). -/
theorem parkMiller_legal_of_residue (x : Nat) (hx : x < Config.m31) :
    ParkMiller.Legal ⟨if x = 0 then 1 else BitVec.ofNat 31 x⟩ := by
  unfold ParkMiller.Legal
  split
  · decide
  · next hne => simp only [Config.m31] at *; rw [ofNat31_toNat x hx]; omega

theorem parkMillerInitInt_legal (s : Word) : (parkMillerInitInt s).Legal :=
  parkMiller_legal_of_residue _ (Nat.mod_lt _ (by decide))

theorem parkMillerFold_legal (st : ParkMiller) (c : CharCode) (h : st.Legal) : (parkMillerFold st c).Legal := by
  obtain ⟨_, hx⟩ := h
  have hc := charCode_toNat_lt_m31 c
  exact parkMiller_legal_of_residue _ (addmod_lt (by simp only [Config.m31] at *; omega))

theorem parkMillerStep_legal (st : ParkMiller) (h : st.Legal) : (parkMillerStep st).2.Legal := by
  obtain ⟨hpos, hx⟩ := h
  have hlt : modmul st.x.toNat 16807 Config.m31 < Config.m31 := modmul_lt _ _ (by decide)
  have hne : modmul st.x.toNat 16807 Config.m31 ≠ 0 := fun e => by
    have := eq_zero_of_modmul_eq_zero _ _ (by norm_num) (by simp only [Config.m31] at hx; omega) e
    omega
  have hleg := parkMiller_legal_of_residue _ hlt
  rwa [if_neg hne] at hleg

-- XORSHIFT32 and the shift triple it shares with KISS (R180 to R183, R189)

/-- The word of XORSHIFT32 is never 0 (R39, R182). -/
def Xorshift32.Legal (st : Xorshift32) : Prop := st.x ≠ 0

theorem xorshiftTriple_injective : Function.Injective xorshiftTriple :=
  (xor_shiftLeft_injective 5 (by decide)).comp
    ((xor_shiftRight_injective 17 (by decide)).comp (xor_shiftLeft_injective 13 (by decide)))

theorem xorshiftTriple_ne_zero {x : Word} (h : x ≠ 0) : xorshiftTriple x ≠ 0 :=
  fun e => h (xorshiftTriple_injective (e.trans (by decide)))

theorem ite_zero_ne_zero (x d : Word) (hd : d ≠ 0) : (if x = 0 then d else x) ≠ 0 := by
  split
  · exact hd
  · assumption

theorem xorshift32InitInt_legal (s : Word) : (xorshift32InitInt s).Legal := ite_zero_ne_zero s 1 (by decide)

theorem xorshift32Fold_legal (st : Xorshift32) (c : CharCode) : (xorshift32Fold st c).Legal :=
  ite_zero_ne_zero _ 1 (by decide)

theorem xorshift32Step_legal (st : Xorshift32) (h : st.Legal) : (xorshift32Step st).2.Legal := xorshiftTriple_ne_zero h

-- KISS (R188 to R191)

/-- The xorshift word of KISS is never 0 (R39). -/
def Kiss.Legal (st : Kiss) : Prop := st.y ≠ 0

theorem kissInitInt_legal (s : Word) : (kissInitInt s).Legal := (by decide : (362436069 : Word) ≠ 0)

theorem kissFold_legal (st : Kiss) (c : CharCode) : (kissFold st c).Legal := ite_zero_ne_zero _ _ (by decide)

theorem kissStep_legal (st : Kiss) (h : st.Legal) : (kissStep st).2.Legal := xorshiftTriple_ne_zero h

-- COVEYOU (R198 to R201)

/-- The word of COVEYOU is 2 modulo 4 (R39, R200). -/
def Coveyou.Legal (st : Coveyou) : Prop := st.x.toNat % 4 = 2

theorem coveyouInitInt_legal (s : Word) : (coveyouInitInt s).Legal := by
  simp only [Coveyou.Legal, coveyouInitInt, toNat_mod_four_eq_two, BitVec.getLsbD_or, BitVec.getLsbD_and]
  simp

theorem coveyouFold_legal (st : Coveyou) (c : CharCode) (h : st.Legal) : (coveyouFold st c).Legal := by
  simp only [Coveyou.Legal, coveyouFold, toNat_mod_four_eq_two, BitVec.getLsbD_xor, BitVec.getLsbD_shiftLeft] at *
  simpa using h

theorem coveyouStep_legal (st : Coveyou) (h : st.Legal) : (coveyouStep st).2.Legal := by
  have hx := st.x.isLt
  have hsucc : (st.x + 1).toNat % 4 = 3 := by
    rw [BitVec.toNat_add]; unfold Coveyou.Legal at h; simp; omega
  have hprod : st.x.toNat * (st.x + 1).toNat % 4 = 2 := by
    rw [Nat.mul_mod, h, hsucc]
  simp only [Coveyou.Legal, coveyouStep, modmul, Config.m32, BitVec.toNat_ofNat]
  omega

-- KNUTHRAN2 (R202 to R205)

/-- The two residues of KNUTHRAN2 are below M31 and not both 0 (R39). -/
def Knuthran2.Legal (st : Knuthran2) : Prop :=
  st.x0.toNat < Config.m31 ∧ st.x1.toNat < Config.m31 ∧ ¬(st.x0 = 0 ∧ st.x1 = 0)

theorem knuthran2InitInt_legal (s : Word) : (knuthran2InitInt s).Legal := by
  obtain ⟨hpos, hlt⟩ := parkMillerInitInt_legal s
  have hx : (parkMillerInitInt s).x.toNat < Config.m31 := by simp only [Config.m31] at *; omega
  refine ⟨hx, hx, fun ⟨e, _⟩ => ?_⟩
  have : (parkMillerInitInt s).x.toNat = 0 := by rw [show (parkMillerInitInt s).x = 0 from e]; rfl
  omega

theorem knuthran2Fold_legal (st : Knuthran2) (c : CharCode) (h : st.Legal) : (knuthran2Fold st c).Legal := by
  obtain ⟨h0, h1, _⟩ := h
  have hc := charCode_toNat_lt_m31 c
  have hlt : addmod st.x1.toNat c.toNat Config.m31 < Config.m31 := addmod_lt (by omega)
  unfold Knuthran2.Legal knuthran2Fold
  generalize addmod st.x1.toNat c.toNat Config.m31 = n at hlt
  have hn := ofNat31_toNat n hlt
  by_cases hz : n = 0 ∧ st.x0 = 0
  · simp only [if_pos hz]
    exact ⟨h0, by decide, fun e => absurd e.2 (by decide)⟩
  · simp only [if_neg hz]
    refine ⟨h0, hn.symm ▸ hlt, fun ⟨e0, e1⟩ => hz ⟨?_, e0⟩⟩
    rw [← hn, e1]; rfl

theorem knuthran2Step_legal (st : Knuthran2) (h : st.Legal) : (knuthran2Step st).2.Legal := by
  obtain ⟨h0, h1, hne⟩ := h
  have ha : modmul st.x1.toNat 271828183 Config.m31 < Config.m31 := modmul_lt _ _ (by decide)
  have hb : modmul st.x0.toNat 1833324378 Config.m31 < Config.m31 := modmul_lt _ _ (by decide)
  have hlt := addmod_lt (a := modmul st.x1.toNat 271828183 Config.m31) (b := modmul st.x0.toNat 1833324378 Config.m31)
    (m := Config.m31) (by omega)
  have hn := ofNat31_toNat _ hlt
  refine ⟨h1, (hn.symm ▸ hlt :), fun ⟨e1, en⟩ => hne ⟨?_, e1⟩⟩
  -- With the newer residue 0 the sum is the product of the older one, which is 0 only where that residue is.
  have hsum : addmod (modmul st.x1.toNat 271828183 Config.m31) (modmul st.x0.toNat 1833324378 Config.m31) Config.m31 =
      0 := by
    rw [← hn]; exact congrArg BitVec.toNat en
  have hx1 : modmul st.x1.toNat 271828183 Config.m31 = 0 := by
    rw [show st.x1 = 0 from e1]; rfl
  have hprod : modmul st.x0.toNat 1833324378 Config.m31 = 0 := by
    rw [hx1, addmod, Nat.zero_add, if_neg (by omega)] at hsum; exact hsum
  exact BitVec.eq_of_toNat_eq (eq_zero_of_modmul_eq_zero _ _ (by norm_num) h0 hprod)

-- The buffers modulo M31: DX1597, MRG5 (R221, R235, R240)

/-- Every word of the buffer is a residue modulo M31 (R39). -/
def Buffer.Residues {K : Nat} (b : Buffer K) : Prop := ∀ i : Fin K, b.buf[i].toNat < Config.m31

theorem fillBuffer_redM31_residues {K : Nat} (hK : 0 < K) (boot : Xs128) : (fillBuffer hK redM31 boot).1.Residues :=
  fillBuffer_redM31_lt hK boot

theorem push_residues {K : Nat} {b : Buffer K} {v : Word} (h : b.Residues) (hv : v.toNat < Config.m31) :
    (push b v).Residues := by
  intro i
  by_cases hi : i = b.p
  · subst hi; rw [push_get_self]; exact hv
  · rw [push_get_other b v i hi]; exact h i

theorem dx1597Step_residues {b : Buffer 1597} (h : b.Residues) : (dx1597Step b).2.Residues := by
  have hv := modmul_lt (dx1597Sum b) Config.dxB (m := Config.m31) (by decide)
  exact push_residues h ((ofNat32_toNat _ hv).symm ▸ hv)

theorem mrg5Step_residues {b : Buffer 5} (h : b.Residues) : (mrg5Step b).2.Residues := by
  have h1 := modmul_lt (lag b 1).toNat 107374182 (m := Config.m31) (by decide)
  have h5 := modmul_lt (lag b 5).toNat 104480 (m := Config.m31) (by decide)
  have hv := addmod_lt (Nat.two_mul Config.m31 ▸ Nat.add_lt_add h1 h5)
  exact push_residues h ((ofNat32_toNat _ hv).symm ▸ hv)

-- All cores (R39, R102)

/-- `init_int(g, w)` leaves legal registers in core `g` (R39, R102). -/
theorem legalCore_genInitInt (g : CoreId) (w : Word) (G : Gens) (b : Xs128) : legalCore g (genInitInt g w G b).1 := by
  cases g with
  | parkMiller => exact parkMillerInitInt_legal w
  | xorshift32 => exact xorshift32InitInt_legal w
  | kiss => exact kissInitInt_legal w
  | coveyou => exact coveyouInitInt_legal w
  | knuthran2 => exact knuthran2InitInt_legal w
  | dx1597 => exact fillBuffer_redM31_residues (by decide) (bootSeedInt w)
  | mrg5 => exact fillBuffer_redM31_residues (by decide) (bootSeedInt w)
  | _ => trivial

/-- `init_str(g, cs)` leaves legal registers in core `g` (R39, R106): `fold` and `step` keep them legal. -/
theorem legalCore_genInitStr (g : CoreId) (cs : List CharCode) (G : Gens) (b : Xs128) :
    legalCore g (genInitStr g cs G b).1 := by
  cases g with
  | parkMiller =>
    exact scalarInitStr_induct _ _ _ _ (parkMillerInitInt_legal 0) parkMillerFold_legal parkMillerStep_legal cs
  | xorshift32 =>
    exact scalarInitStr_induct _ _ _ _ (xorshift32InitInt_legal 0) (fun st c _ => xorshift32Fold_legal st c)
      xorshift32Step_legal cs
  | kiss =>
    exact scalarInitStr_induct _ _ _ _ (kissInitInt_legal 0) (fun st c _ => kissFold_legal st c) kissStep_legal cs
  | coveyou => exact scalarInitStr_induct _ _ _ _ (coveyouInitInt_legal 0) coveyouFold_legal coveyouStep_legal cs
  | knuthran2 =>
    exact scalarInitStr_induct _ _ _ _ (knuthran2InitInt_legal 0) knuthran2Fold_legal knuthran2Step_legal cs
  | dx1597 => exact fillBuffer_redM31_residues (by decide) (bootSeedStr cs)
  | mrg5 => exact fillBuffer_redM31_residues (by decide) (bootSeedStr cs)
  | _ => trivial

/-- `step(g)` keeps the registers of core `g` legal (R39, R102). -/
theorem legalCore_genStep {g : CoreId} {G : Gens} (h : legalCore g G) : legalCore g (genStep g G).2 := by
  cases g with
  | parkMiller => exact parkMillerStep_legal _ h
  | xorshift32 => exact xorshift32Step_legal _ h
  | kiss => exact kissStep_legal _ h
  | coveyou => exact coveyouStep_legal _ h
  | knuthran2 => exact knuthran2Step_legal _ h
  | dx1597 => exact dx1597Step_residues h
  | mrg5 => exact mrg5Step_residues h
  | _ => trivial

/-- `seed_apply(g, sd)` leaves legal registers in core `g` (R39, R105). -/
theorem legalCore_seedApply (s : State) (g : CoreId) (sd : SeedVal) : legalCore g (s.seedApply g sd).gen := by
  cases sd with
  | none => exact legalCore_genInitInt ..
  | int w => exact legalCore_genInitInt ..
  | str cs => exact legalCore_genInitStr ..

end Sys2Proof.Machine
end

section
/-! What every step keeps (spec/10_state.md R39): the invariants of one core, what each operation of the contract does to
them, and from these every command and every step. -/

namespace Sys2Proof.Machine

-- The invariants of one core

/-- What `Inv` says of one constructed core. -/
structure CoreInv (g : CoreId) (s : State) : Prop where
  legalGen : legalCore g s.gen
  legalSnap : s.snapvOf g = true → legalCore g s.snap
  recalcRange : (s.recalcOf g).toNat ≤ Config.recalcFreq
  recalcDeterministic : s.noseedOf g = false → s.recalcOf g = 0
  snapshotMode : s.snapvOf g = !(s.noseedOf g)
  philoxSnapshot : g = .philox → s.snapvOf g = true → s.snap.philox.idx = 4 ∧ ctrNumber s.snap.philox.ctr = 0

theorem Inv.core {s : State} (h : Inv s) {g : CoreId} (hg : s.instOf g = true) : CoreInv g s where
  legalGen := h.legalGen g hg
  legalSnap := h.legalSnap g hg
  recalcRange := h.recalcRange g hg
  recalcDeterministic := h.recalcDeterministic g hg
  snapshotMode := h.snapshotMode g hg
  philoxSnapshot e hv := h.philoxSnapshot (e ▸ hg) (e ▸ hv)

/-- `Inv` is the invariants of the constructed cores, of which the current one is one, and the mode of the last seed. -/
theorem inv_iff (s : State) :
    Inv s ↔ s.instOf s.cur = true ∧ (∀ g, s.instOf g = true → CoreInv g s) ∧
      s.noseedOf s.cur = decide (s.lsKind = .none) := by
  constructor
  · intro h
    exact ⟨h.instCur, fun _ hg => h.core hg, h.lastSeedMode⟩
  · intro ⟨hcur, hcore, hmode⟩
    exact ⟨hcur, fun g hg => (hcore g hg).legalGen, fun g hg => (hcore g hg).legalSnap,
      fun g hg => (hcore g hg).recalcRange, fun g hg => (hcore g hg).recalcDeterministic,
      fun g hg => (hcore g hg).snapshotMode, hmode, fun hg => (hcore .philox hg).philoxSnapshot rfl⟩

theorem Inv.curCore {s : State} (h : Inv s) : CoreInv s.cur s := h.core h.instCur

/-- A core that nothing touched keeps its invariants. -/
theorem CoreInv.of_sameCore {g : CoreId} {s t : State} (h : CoreInv g s) (e : SameCore g s t) : CoreInv g t where
  legalGen := (legalCore_congr e.gen).mpr h.legalGen
  legalSnap hv := (legalCore_congr e.snap).mpr (h.legalSnap (e.snapv ▸ hv))
  recalcRange := e.recalc ▸ h.recalcRange
  recalcDeterministic hn := e.recalc.trans (h.recalcDeterministic (e.noseed ▸ hn))
  snapshotMode := by rw [e.snapv, e.noseed]; exact h.snapshotMode
  philoxSnapshot hg hv := by
    subst hg
    rw [CoreState.philox.inj e.snap]
    exact h.philoxSnapshot rfl (e.snapv ▸ hv)

/-- An operation keeps `Inv` when it leaves the core then current constructed, with that core's invariants and in the mode
of the last seed, and neither touches nor constructs another core. -/
theorem Inv.of_others {s t : State} (h : Inv s) (hinst : t.instOf t.cur = true) (hcur : CoreInv t.cur t)
    (hmode : t.noseedOf t.cur = decide (t.lsKind = .none))
    (hothers : ∀ k, k ≠ t.cur → SameCore k s t ∧ t.instOf k = s.instOf k) : Inv t := by
  refine (inv_iff t).mpr ⟨hinst, fun k hk => ?_, hmode⟩
  by_cases e : k = t.cur
  · exact e ▸ hcur
  · obtain ⟨hsame, hi⟩ := hothers k e
    exact (h.core (hi ▸ hk)).of_sameCore hsame

/-- Sending beats keeps `Inv`. -/
theorem Inv.send {s : State} (h : Inv s) (bs : List BeatWord) : Inv (s.send bs) :=
  ⟨h.instCur, h.legalGen, h.legalSnap, h.recalcRange, h.recalcDeterministic, h.snapshotMode, h.lastSeedMode,
    h.philoxSnapshot⟩

/-- Taking words off the command port keeps `Inv`. -/
theorem Inv.withCmd {s : State} (h : Inv s) (ws : List CmdWord) : Inv { s with cmd := ws } :=
  ⟨h.instCur, h.legalGen, h.legalSnap, h.recalcRange, h.recalcDeterministic, h.snapshotMode, h.lastSeedMode,
    h.philoxSnapshot⟩

-- seed_apply (R105)

/-- Seeding core `g` touches no other core (R101, R105). -/
theorem seedApply_sameCore (s : State) {g k : CoreId} (ne : k ≠ g) (sd : SeedVal) : SameCore k s (s.seedApply g sd) where
  gen := coreState_seedApply_gen_other s ne sd
  snap := coreState_seedApply_snap_other s ne sd
  noseed := by simp [Ne.symm ne]
  recalc := by simp [Ne.symm ne]
  snapv := by simp [Ne.symm ne]

theorem snapvAfter_eq_true (sd : SeedVal) : snapvAfter sd = true ↔ sd ≠ .none := by cases sd <;> simp [snapvAfter]

theorem snapvAfter_eq_not_noseedAfter (sd : SeedVal) : snapvAfter sd = !(noseedAfter sd) := by cases sd <;> rfl

theorem noseedAfter_lastSeed (s : State) : noseedAfter s.lastSeed = decide (s.lsKind = .none) := by
  cases h : s.lsKind <;> simp [State.lastSeed, h, noseedAfter]

/-- A seeded PHILOX has handed out its whole buffer and its counter at 0 (R286 to R288). -/
theorem philox_seedApply (s : State) (sd : SeedVal) :
    (s.seedApply .philox sd).gen.philox.idx = 4 ∧ ctrNumber (s.seedApply .philox sd).gen.philox.ctr = 0 := by
  cases sd <;> exact ⟨rfl, rfl⟩

/-- Seeding a core gives it its invariants, whatever it held before (R39, R105). -/
theorem coreInv_seedApply (s : State) (g : CoreId) (sd : SeedVal) : CoreInv g (s.seedApply g sd) where
  legalGen := legalCore_seedApply s g sd
  legalSnap hv := by
    rw [seedApply_snapvOf, if_pos rfl, snapvAfter_eq_true] at hv
    exact (legalCore_congr (coreState_seedApply_snap s g sd hv)).mpr (legalCore_seedApply s g sd)
  recalcRange := by simp
  recalcDeterministic _ := by simp
  snapshotMode := by simp [snapvAfter_eq_not_noseedAfter]
  philoxSnapshot hg hv := by
    subst hg
    rw [seedApply_snapvOf, if_pos rfl, snapvAfter_eq_true] at hv
    rw [CoreState.philox.inj (coreState_seedApply_snap s .philox sd hv)]
    exact philox_seedApply s sd

/-- A command that records a last seed in `s'` and seeds the current core with it keeps `Inv` (R112 to R114, R121). -/
theorem Inv.seedApply {s s' : State} (h : Inv s) {g : CoreId} (hg : s'.cur = g) (hinst : s'.instOf g = true)
    (hothers : ∀ k, k ≠ g → SameCore k s s' ∧ s'.instOf k = s.instOf k) {sd : SeedVal} (hsd : s'.lastSeed = sd) :
    Inv (s'.seedApply g sd) := by
  subst hg hsd
  refine h.of_others (by simpa using hinst) (by simpa using coreInv_seedApply s' s'.cur s'.lastSeed)
    (by simp [noseedAfter_lastSeed]) fun k ne => ?_
  rw [seedApply_cur] at ne
  obtain ⟨hsame, hi⟩ := hothers k ne
  have hseed := seedApply_sameCore s' ne s'.lastSeed
  exact ⟨⟨hseed.gen.trans hsame.gen, hseed.snap.trans hsame.snap, hseed.noseed.trans hsame.noseed,
    hseed.recalc.trans hsame.recalc, hseed.snapv.trans hsame.snapv⟩, by simpa using hi⟩

/-- The switch of SELECT keeps `Inv` (R121). -/
theorem Inv.switchTo {s : State} (h : Inv s) (g : CoreId) : Inv (s.switchTo g) :=
  h.seedApply (s' := { s.setInst g true with cur := g }) rfl ((setInst_instOf s g g true).trans (if_pos rfl))
    (fun k ne => ⟨⟨rfl, rfl, rfl, rfl, rfl⟩, (setInst_instOf s g k true).trans (if_neg (Ne.symm ne))⟩) rfl

-- The generate loop (R109, R119)

/-- An operation within the frame of the generate loop keeps `Inv` when it keeps the current core's invariants. -/
theorem Inv.of_loopFrame {s t : State} (h : Inv s) (f : LoopFrame s.cur s t) (hcur : CoreInv s.cur t) : Inv t := by
  refine h.of_others ?_ (f.cur ▸ hcur) ?_ fun k ne => ?_
  · rw [f.cur, f.instOf]; exact h.instCur
  · rw [f.cur, f.noseedOf, f.lsKind]; exact h.lastSeedMode
  · obtain ⟨hgen, hrecalc⟩ := f.others k (f.cur ▸ ne)
    exact ⟨⟨hgen, by rw [f.snap], f.noseedOf k, hrecalc, f.snapvOf k⟩, f.instOf k⟩

/-- Counting a value below the limit keeps `RECALC` within `RECALC_FREQ` (R109). -/
theorem recalc_succ_le {r : BitVec 17} (h : r.toNat ≤ Config.recalcFreq) (hne : r ≠ recalcLimit) :
    (r + 1).toNat ≤ Config.recalcFreq := by
  have hlt : r.toNat ≠ recalcLimit.toNat := fun e => hne (BitVec.eq_of_toNat_eq e)
  rw [recalcLimit_toNat] at hlt
  rw [BitVec.toNat_add]
  simp only [Config.recalcFreq] at *
  simp
  omega

/-- In ambient mode a core has no snapshot, so its invariants are its legal registers and the range of its count. -/
theorem coreInv_of_ambient {g : CoreId} {s : State} (hn : s.noseedOf g = true) (hv : s.snapvOf g = !(s.noseedOf g))
    (hl : legalCore g s.gen) (hr : (s.recalcOf g).toNat ≤ Config.recalcFreq) : CoreInv g s := by
  have noSnap : ¬s.snapvOf g = true := by simp [hv, hn]
  exact ⟨hl, fun e => absurd e noSnap, hr, fun e => absurd (hn.symm.trans e) (by decide), hv,
    fun _ e => absurd e noSnap⟩

theorem CoreInv.book {g : CoreId} {s : State} (h : CoreInv g s) : CoreInv g (s.book g) := by
  have hmode : (s.book g).snapvOf g = !((s.book g).noseedOf g) := by
    rw [(book_frame s g).snapvOf, (book_frame s g).noseedOf]; exact h.snapshotMode
  have hnoseed := (book_frame s g).noseedOf g
  rcases book_cases s g with ⟨_, e⟩ | ⟨hn, hr, e⟩ | ⟨hn, _, e⟩ <;> rw [e] at hmode hnoseed ⊢
  · exact h
  · refine coreInv_of_ambient (hnoseed.trans hn) hmode h.legalGen ?_
    simpa [State.countValue] using recalc_succ_le h.recalcRange hr
  · refine coreInv_of_ambient (hnoseed.trans hn) hmode (legalCore_genInitInt ..) ?_
    simp [State.countValue, Config.recalcFreq]

theorem CoreInv.stepCore {g : CoreId} {s : State} (h : CoreInv g s) : CoreInv g (s.stepCore g) :=
  ⟨legalCore_genStep h.legalGen, h.legalSnap, h.recalcRange, h.recalcDeterministic, h.snapshotMode, h.philoxSnapshot⟩

theorem CoreInv.generate {g : CoreId} (k : Nat) {s : State} (h : CoreInv g s) : CoreInv g (State.generate g k s).2 := by
  induction k generalizing s with
  | zero => exact h
  | succ k ih => exact ih h.book.stepCore

theorem Inv.stepCore {s : State} (h : Inv s) : Inv (s.stepCore s.cur) :=
  h.of_loopFrame (stepCore_frame s s.cur) h.curCore.stepCore

theorem Inv.generate {s : State} (h : Inv s) (k : Nat) : Inv (State.generate s.cur k s).2 :=
  h.of_loopFrame (generate_frame s.cur k s) (h.curCore.generate k)

-- SEED_OTHER and RESTORE (R115, R122)

/-- The three writes of SEED_OTHER put the current core in ambient mode, in step with the last seed (R115). -/
theorem Inv.refuseSeed {s : State} (h : Inv s) :
    Inv ((s.setNoseed s.cur true).setSnapv s.cur false).forgetSeed := by
  refine h.of_others h.instCur ?_ (by simp) fun k ne => ?_
  · exact coreInv_of_ambient (by simp) (by simp) h.curCore.legalGen h.curCore.recalcRange
  · have ne' : s.cur ≠ k := Ne.symm ne
    exact ⟨⟨rfl, rfl, by simp [ne'], rfl, by simp [ne']⟩, rfl⟩

/-- RESTORE copies legal registers (R122). -/
theorem Inv.restoreSnapshot {s : State} (h : Inv s) (hv : s.snapvOf s.cur = true) : Inv (s.restoreSnapshot s.cur) :=
  h.of_others h.instCur
    ⟨legalCore_copyCore _ (h.curCore.legalSnap hv) h.curCore.legalGen, h.curCore.legalSnap, h.curCore.recalcRange,
      h.curCore.recalcDeterministic, h.curCore.snapshotMode, h.curCore.philoxSnapshot⟩
    h.lastSeedMode
    fun _ ne => ⟨⟨coreState_copyCore_other ne _ _, rfl, rfl, rfl, rfl⟩, rfl⟩

-- Every command, every step

theorem Inv.emitMany {s : State} (h : Inv s) (k : Kind) (n : Int) : ∃ t, emitMany k n s = .next t ∧ Inv t :=
  ⟨_, emitMany_eq s k n, (h.generate _).send _⟩

/-- Every command completes and keeps `Inv`. -/
theorem Inv.exec {s : State} (h : Inv s) (i : Instr) : ∃ t, exec i s = .next t ∧ Inv t := by
  cases i with
  | seedNone =>
    exact ⟨_, exec_seedNone s, (h.seedApply (s' := s.forgetSeed) rfl h.instCur
      (fun k _ => ⟨⟨rfl, rfl, rfl, rfl, rfl⟩, rfl⟩) rfl).send _⟩
  | seedInt imm =>
    exact ⟨_, exec_seedInt s imm, (h.seedApply (s' := s.keepSeedInt imm) rfl h.instCur
      (fun k _ => ⟨⟨rfl, rfl, rfl, rfl, rfl⟩, rfl⟩) rfl).send _⟩
  | seedStr cs =>
    by_cases hl : cs.length ≤ Config.maxSeedLen
    · exact ⟨_, exec_seedStr s cs hl, (h.seedApply (s' := s.keepSeedStr cs hl) rfl h.instCur
        (fun k _ => ⟨⟨rfl, rfl, rfl, rfl, rfl⟩, rfl⟩) (lastSeed_keepSeedStr s cs hl)).send _⟩
    · exact ⟨_, exec_seedStr_long s cs hl, h.send _⟩
  | seedOther t arg => exact ⟨_, exec_seedOther s t arg, h.refuseSeed.send _⟩
  | next => exact ⟨_, exec_next s, h.stepCore.send _⟩
  | nextInt =>
    by_cases hi : givesIntegers s.cur = true
    · exact ⟨_, exec_nextInt s hi, h.stepCore.send _⟩
    · exact ⟨_, exec_nextInt_unsupported s hi, h.send _⟩
  | random imm => exact h.emitMany .float (countOperand imm)
  | randomInt imm =>
    by_cases hi : givesIntegers s.cur = true
    · rw [exec_randomInt s imm hi]; exact h.emitMany .int (countOperand imm)
    · exact ⟨_, exec_randomInt_unsupported s imm hi, h.send _⟩
  | select gid =>
    cases e : coreOfGid gid with
    | none => exact ⟨_, exec_select_unknown s gid e, h.send _⟩
    | some g =>
      by_cases hg : g = s.cur
      · exact ⟨_, exec_select_same s gid (hg ▸ e), h.send _⟩
      · exact ⟨_, exec_select s gid g e hg, (h.switchTo g).send _⟩
  | restore =>
    by_cases hr : s.noseedOf s.cur = false ∧ s.snapvOf s.cur = true
    · exact ⟨_, exec_restore s hr, (h.restoreSnapshot hr.2).send _⟩
    · exact ⟨_, exec_restore_noop s hr, h.send _⟩
  | char ch => exact ⟨_, exec_char s ch, h.send _⟩

/-- A whole command at the head of the command port is taken off it and executed (R100). -/
theorem step_of_instr {s : State} {i : Instr} {rest : List CmdWord} (e : decode s.cmd = .instr i rest) :
    step s = exec i { s with cmd := rest } := by unfold step; rw [e]

/-- An illegal command is taken off the command port and answered with `IllegalCommand` (R84, R303). -/
theorem step_of_illegal {s : State} {why : Illegal} {hdr : CmdWord} {rest : List CmdWord}
    (e : decode s.cmd = .illegal why hdr rest) :
    step s = .next (State.send { s with cmd := rest } [errorBeat .illegalCommand hdr]) := by
  unfold step; rw [e]; rfl

/-- While no whole command has arrived nothing changes (R335). -/
theorem step_of_waiting {s : State} (e : decode s.cmd = .waiting) : step s = .next s := by unfold step; rw [e]

/-- Every step completes and keeps `Inv`. -/
theorem Inv.step {s : State} (h : Inv s) : ∃ t, step s = .next t ∧ Inv t := by
  cases e : decode s.cmd with
  | instr i rest => rw [step_of_instr e]; exact (h.withCmd rest).exec i
  | illegal why hdr rest => exact ⟨_, step_of_illegal e, (h.withCmd rest).send _⟩
  | waiting => exact ⟨_, step_of_waiting e, h⟩

/-- Settles O35: each command's effect keeps the invariants of the current core and touches no other. -/
theorem stepKeepsTheInvariants : Obligations.StepKeepsTheInvariants := by
  intro s t h hstep
  obtain ⟨t', e, ht⟩ := h.step
  obtain rfl : t' = t := Host.Outcome.next.inj (e.symm.trans hstep)
  exact ht

-- Reset (R37)

/-- Reset constructs DEFAULT alone (R37). -/
theorem resetWith_instOf (e0 : Word) (ent : List Word) (n : Nat) (g : CoreId) :
    (State.resetWith e0 ent n).instOf g = decide (g = .dflt) := by cases g <;> rfl

/-- Settles O37: the table of reset values, read off `State.resetWith`. -/
theorem resetLeavesDefaultAmbient : Obligations.ResetLeavesDefaultAmbient :=
  ⟨⟨Config.entropy 0, [], 1, rfl⟩,
    fun e0 ent n => ⟨rfl, rfl, rfl, rfl, rfl, resetWith_instOf e0 ent n, rfl⟩⟩

/-- Settles O36: the one constructed core is DEFAULT, ambient and with its count at 0. -/
theorem resetMeetsTheInvariants : Obligations.ResetMeetsTheInvariants := by
  refine (inv_iff State.reset).mpr ⟨rfl, fun g hg => ?_, rfl⟩
  have only : g = .dflt := by
    rw [State.reset, resetWith_instOf] at hg
    exact of_decide_eq_true hg
  subst only
  exact coreInv_of_ambient rfl rfl trivial (by decide)

end Sys2Proof.Machine
end

section
/-! No response depends on a core that is not current, on BOOT or on fields without meaning (spec/10_state.md R36): every
operation of the contract takes alike states to alike states, and every command answers alike in them. -/

namespace Sys2Proof.Machine

/-- What alike states share besides the registers of the current core: all that a seeding of that core reads. -/
structure AlikeOutside (s t : State) : Prop where
  cur : s.cur = t.cur
  lastSeed : s.lastSeed = t.lastSeed
  cmd : s.cmd = t.cmd
  ent : s.ent = t.ent
  entCount : s.entCount = t.entCount
  resp : s.resp = t.resp

theorem Alike.outside {s t : State} (h : Alike s t) : AlikeOutside s t :=
  ⟨h.cur, h.lastSeed, h.cmd, h.ent, h.entCount, h.resp⟩

theorem AlikeOutside.entropyWord {s t : State} (h : AlikeOutside s t) : s.entropyWord = t.entropyWord := by
  simp only [State.entropyWord, h.ent, h.entCount]

theorem Alike.send {s t : State} (h : Alike s t) (bs : List BeatWord) : Alike (s.send bs) (t.send bs) :=
  ⟨h.cur, h.lastSeed, h.noseed, h.recalc, h.snapv, h.gen, h.snap, h.cmd, h.ent, h.entCount,
    congrArg (· ++ bs) h.resp⟩

theorem Alike.withCmd {s t : State} (h : Alike s t) (ws : List CmdWord) :
    Alike { s with cmd := ws } { t with cmd := ws } :=
  ⟨h.cur, h.lastSeed, h.noseed, h.recalc, h.snapv, h.gen, h.snap, rfl, h.ent, h.entCount, h.resp⟩

-- seed_apply (R105): it overwrites all that belongs to the current core, so nothing it held matters.

theorem AlikeOutside.seedApply {s t : State} {g : CoreId} (h : AlikeOutside s t) (hg : s.cur = g) (sd : SeedVal) :
    Alike (s.seedApply g sd) (t.seedApply g sd) := by
  subst hg
  have hgen : coreState s.cur (s.seedApply s.cur sd).gen = coreState s.cur (t.seedApply s.cur sd).gen := by
    rw [coreState_seedApply_gen, coreState_seedApply_gen, h.entropyWord]
  refine ⟨by simpa using h.cur, by simpa using h.lastSeed, by simp, by simp, by simp, by simpa using hgen, fun hv => ?_,
    by simpa using h.cmd, ?_, ?_, by simpa using h.resp⟩
  · rw [seedApply_cur, seedApply_snapvOf, if_pos rfl, snapvAfter_eq_true] at hv
    rw [seedApply_cur, coreState_seedApply_snap s _ sd hv, coreState_seedApply_snap t _ sd hv, hgen]
  · rw [(seedApply_sampled s s.cur sd).rest, (seedApply_sampled t s.cur sd).rest, h.ent]
  · rw [(seedApply_sampled s s.cur sd).count, (seedApply_sampled t s.cur sd).count, h.entCount]

theorem AlikeOutside.forgetSeed {s t : State} (h : AlikeOutside s t) : AlikeOutside s.forgetSeed t.forgetSeed :=
  ⟨h.cur, rfl, h.cmd, h.ent, h.entCount, h.resp⟩

theorem AlikeOutside.keepSeedInt {s t : State} (h : AlikeOutside s t) (w : Word) :
    AlikeOutside (s.keepSeedInt w) (t.keepSeedInt w) :=
  ⟨h.cur, rfl, h.cmd, h.ent, h.entCount, h.resp⟩

theorem AlikeOutside.keepSeedStr {s t : State} (h : AlikeOutside s t) (cs : List CharCode)
    (hl : cs.length ≤ Config.maxSeedLen) : AlikeOutside (s.keepSeedStr cs hl) (t.keepSeedStr cs hl) :=
  ⟨h.cur, by rw [lastSeed_keepSeedStr, lastSeed_keepSeedStr], h.cmd, h.ent, h.entCount, h.resp⟩

/-- The switch of SELECT forgets which core was current before (R121). -/
theorem AlikeOutside.switchTo {s t : State} (h : AlikeOutside s t) (g : CoreId) :
    Alike (s.switchTo g) (t.switchTo g) := by
  have hsel : AlikeOutside { s.setInst g true with cur := g } { t.setInst g true with cur := g } :=
    ⟨rfl, h.lastSeed, h.cmd, h.ent, h.entCount, h.resp⟩
  have hseed := hsel.seedApply rfl s.lastSeed
  rwa [show t.switchTo g = State.seedApply { t.setInst g true with cur := g } g s.lastSeed from
    congrArg (State.seedApply { t.setInst g true with cur := g } g) h.lastSeed.symm]

-- The generate loop (R109, R119)

section generate
variable {s t : State} {g : CoreId}

theorem Alike.setRecalc (h : Alike s t) (hg : s.cur = g) (v : BitVec 17) : Alike (s.setRecalc g v) (t.setRecalc g v) := by
  subst hg
  exact ⟨h.cur, h.lastSeed, h.noseed, by simp, h.snapv, h.gen, h.snap, h.cmd, h.ent, h.entCount, h.resp⟩

theorem Alike.countValue (h : Alike s t) (hg : s.cur = g) : Alike (s.countValue g) (t.countValue g) := by
  have hr := h.recalc
  subst hg
  unfold State.countValue
  rw [← hr]
  exact h.setRecalc rfl _

theorem Alike.initTime (h : Alike s t) (hg : s.cur = g) : Alike (s.initTime g) (t.initTime g) := by
  subst hg
  refine ⟨h.cur, h.lastSeed, h.noseed, h.recalc, h.snapv, ?_, h.snap, h.cmd, congrArg List.tail h.ent,
    congrArg (· + 1) h.entCount, h.resp⟩
  simp only [State.initTime, h.outside.entropyWord]
  exact coreState_genInitInt_congr ..

theorem Alike.book (h : Alike s t) (hg : s.cur = g) : Alike (s.book g) (t.book g) := by
  have hn : s.noseedOf g = t.noseedOf g := hg ▸ h.noseed
  have hr : s.recalcOf g = t.recalcOf g := hg ▸ h.recalc
  rcases book_cases s g with ⟨hs, e⟩ | ⟨hs, hl, e⟩ | ⟨hs, hl, e⟩ <;> rw [e]
  · rw [book_deterministic t g (hn ▸ hs)]; exact h
  · rw [book_counts t g (hn ▸ hs) (hr ▸ hl)]; exact h.countValue hg
  · rw [book_reseeds t g (hn ▸ hs) (hr ▸ hl)]; exact ((h.initTime hg).setRecalc hg 0).countValue hg

/-- Alike states give the same raw output. -/
theorem Alike.rawOf (h : Alike s t) (hg : s.cur = g) : s.rawOf g = t.rawOf g :=
  (genStep_congr (hg ▸ h.gen)).1

theorem Alike.stepCore (h : Alike s t) (hg : s.cur = g) : Alike (s.stepCore g) (t.stepCore g) := by
  subst hg
  exact ⟨h.cur, h.lastSeed, h.noseed, h.recalc, h.snapv, (genStep_congr h.gen).2, h.snap, h.cmd, h.ent, h.entCount,
    h.resp⟩

/-- The loop gives the same raw outputs in alike states and leaves alike states. -/
theorem Alike.generate (k : Nat) (h : Alike s t) (hg : s.cur = g) :
    (State.generate g k s).1 = (State.generate g k t).1 ∧ Alike (State.generate g k s).2 (State.generate g k t).2 := by
  induction k generalizing s t with
  | zero => exact ⟨rfl, h⟩
  | succ k ih =>
    have hb := h.book hg
    have hbg : (s.book g).cur = g := (book_frame s g).cur.trans hg
    obtain ⟨hraws, hend⟩ := ih (hb.stepCore hbg) hbg
    exact ⟨congrArg₂ List.cons (hb.rawOf hbg) hraws, hend⟩

end generate

-- SEED_OTHER and RESTORE (R115, R122)

theorem Alike.refuseSeed {s t : State} {g : CoreId} (h : Alike s t) (hg : s.cur = g) :
    Alike ((s.setNoseed g true).setSnapv g false).forgetSeed ((t.setNoseed g true).setSnapv g false).forgetSeed := by
  subst hg
  refine ⟨h.cur, rfl, by simp, h.recalc, by simp, h.gen, fun hv => ?_, h.cmd, h.ent, h.entCount, h.resp⟩
  simp at hv

theorem Alike.restoreSnapshot {s t : State} {g : CoreId} (h : Alike s t) (hg : s.cur = g) (hv : s.snapvOf g = true) :
    Alike (s.restoreSnapshot g) (t.restoreSnapshot g) := by
  subst hg
  refine ⟨h.cur, h.lastSeed, h.noseed, h.recalc, h.snapv, ?_, h.snap, h.cmd, h.ent, h.entCount, h.resp⟩
  simpa using h.snap hv

-- Every command, every step

/-- Two answers the host cannot tell apart: next states that are alike. -/
def AlikeAnswers (r q : Result) : Prop := ∃ s t, r = .next s ∧ q = .next t ∧ Alike s t

theorem alikeAnswers_next {s t : State} (h : Alike s t) : AlikeAnswers (.next s) (.next t) := ⟨s, t, rfl, rfl, h⟩

theorem Alike.emitMany {s t : State} (h : Alike s t) (k : Kind) (n : Int) :
    AlikeAnswers (emitMany k n s) (emitMany k n t) := by
  obtain ⟨hraws, hend⟩ := h.generate (valueCount n) rfl
  rw [emitMany_eq, emitMany_eq, ← h.cur, ← hraws]
  exact alikeAnswers_next (hend.send _)

/-- Every command answers alike in alike states. -/
theorem Alike.exec {s t : State} (h : Alike s t) (i : Instr) : AlikeAnswers (exec i s) (exec i t) := by
  have hcur := h.cur
  cases i with
  | seedNone =>
    rw [exec_seedNone, exec_seedNone, ← hcur]
    exact alikeAnswers_next ((h.outside.forgetSeed.seedApply rfl _).send _)
  | seedInt imm =>
    rw [exec_seedInt, exec_seedInt, ← hcur]
    exact alikeAnswers_next (((h.outside.keepSeedInt imm).seedApply rfl _).send _)
  | seedStr cs =>
    by_cases hl : cs.length ≤ Config.maxSeedLen
    · rw [exec_seedStr s cs hl, exec_seedStr t cs hl, ← hcur]
      exact alikeAnswers_next (((h.outside.keepSeedStr cs hl).seedApply rfl _).send _)
    · rw [exec_seedStr_long s cs hl, exec_seedStr_long t cs hl]
      exact alikeAnswers_next (h.send _)
  | seedOther tag arg =>
    rw [exec_seedOther, exec_seedOther, ← hcur]
    exact alikeAnswers_next ((h.refuseSeed rfl).send _)
  | next =>
    rw [exec_next, exec_next, ← hcur, ← h.rawOf rfl]
    exact alikeAnswers_next ((h.stepCore rfl).send _)
  | nextInt =>
    by_cases hi : givesIntegers s.cur = true
    · rw [exec_nextInt s hi, exec_nextInt t (hcur ▸ hi), ← hcur, ← h.rawOf rfl]
      exact alikeAnswers_next ((h.stepCore rfl).send _)
    · rw [exec_nextInt_unsupported s hi, exec_nextInt_unsupported t (hcur ▸ hi)]
      exact alikeAnswers_next (h.send _)
  | random imm => exact h.emitMany .float (countOperand imm)
  | randomInt imm =>
    by_cases hi : givesIntegers s.cur = true
    · rw [exec_randomInt s imm hi, exec_randomInt t imm (hcur ▸ hi)]
      exact h.emitMany .int (countOperand imm)
    · rw [exec_randomInt_unsupported s imm hi, exec_randomInt_unsupported t imm (hcur ▸ hi)]
      exact alikeAnswers_next (h.send _)
  | select gid =>
    cases e : coreOfGid gid with
    | none =>
      rw [exec_select_unknown s gid e, exec_select_unknown t gid e]
      exact alikeAnswers_next (h.send _)
    | some g =>
      by_cases hg : g = s.cur
      · rw [exec_select_same s gid (hg ▸ e), exec_select_same t gid (hcur ▸ hg ▸ e)]
        exact alikeAnswers_next (h.send _)
      · rw [exec_select s gid g e hg, exec_select t gid g e (hcur ▸ hg)]
        exact alikeAnswers_next ((h.outside.switchTo g).send _)
  | restore =>
    have hiff : (t.noseedOf t.cur = false ∧ t.snapvOf t.cur = true) ↔
        (s.noseedOf s.cur = false ∧ s.snapvOf s.cur = true) := by rw [← hcur, h.noseed, h.snapv]
    by_cases hr : s.noseedOf s.cur = false ∧ s.snapvOf s.cur = true
    · rw [exec_restore s hr, exec_restore t (hiff.mpr hr), ← hcur]
      exact alikeAnswers_next ((h.restoreSnapshot rfl hr.2).send _)
    · rw [exec_restore_noop s hr, exec_restore_noop t (fun ht => hr (hiff.mp ht))]
      exact alikeAnswers_next (h.send _)
  | char ch =>
    rw [exec_char, exec_char]
    exact alikeAnswers_next (h.send _)

/-- Every step answers alike in alike states: they hold the same words at the command port. -/
theorem Alike.step {s t : State} (h : Alike s t) : AlikeAnswers (step s) (step t) := by
  cases e : decode s.cmd with
  | instr i rest =>
    rw [step_of_instr e, step_of_instr (h.cmd ▸ e)]
    exact (h.withCmd rest).exec i
  | illegal why hdr rest =>
    rw [step_of_illegal e, step_of_illegal (h.cmd ▸ e)]
    exact alikeAnswers_next ((h.withCmd rest).send _)
  | waiting =>
    rw [step_of_waiting e, step_of_waiting (h.cmd ▸ e)]
    exact alikeAnswers_next h

/-- Settles O34, from the two-state lemma of each operation. -/
theorem otherCoresAreNeverObserved : Obligations.OtherCoresAreNeverObserved := by
  intro s t s' h hstep
  obtain ⟨s₁, t', es, et, halike⟩ := h.step
  obtain rfl : s' = s₁ := Host.Outcome.next.inj (hstep.symm.trans es)
  exact ⟨t', et, halike⟩

end Sys2Proof.Machine
end

section
/-! PROOFS. The family '20_memory.md': the circular buffers (R25, R61). -/

namespace Sys2Proof.Machine

/-- Settles O45, from the rules of `lag` and `push`: the new word, the older words, the pointer. -/
theorem pushMakesEveryWordOneLagOlder : Obligations.PushMakesEveryWordOneLagOlder := by
  intro K b v
  have hptr : (push b v).p.val = if b.p.val + 1 = K then 0 else b.p.val + 1 :=
    (push_p b v).trans (wrap_next K b.p.val b.p.isLt)
  exact ⟨lag_push_one b v, lag_push_succ b v, hptr⟩

end Sys2Proof.Machine
end

section
/-! PROOFS. The family '30_encoding.md', the command words (R80 to R86): what decodes, what its words are, and the words
that are illegal (R84). -/

namespace Sys2Proof

-- Decoding at the head of the command stream, by what its header says (R85, R335).

theorem decode_of_single {w : CmdWord} {i : Instr} (h : decodeHeader w = .single i) (rest : List CmdWord) :
    decode (w :: rest) = .instr i rest := by simp only [decode, h]

theorem decode_of_text {w : CmdWord} {len : Nat} (h : decodeHeader w = .text len) (rest : List CmdWord) :
    decode (w :: rest) = decodeText w len rest := by simp only [decode, h]

theorem decode_of_bad {w : CmdWord} {why : Illegal} (h : decodeHeader w = .bad why) (rest : List CmdWord) :
    decode (w :: rest) = .illegal why w rest := by simp only [decode, h]

/-- A SEED_STR command is found once all its words have arrived and carry characters (R85). -/
theorem decodeText_eq_instr {hdr : CmdWord} {len : Nat} {ws rest : List CmdWord} {i : Instr}
    (h : decodeText hdr len ws = .instr i rest) :
    ∃ cs : List CharCode, i = .seedStr cs ∧ cs.length = len ∧ ws = cs.map charWord ++ rest := by
  unfold decodeText at h
  split at h
  · cases h
  · next hlen =>
    split at h
    · next cs hcs =>
      cases h
      have htake := (charsOf_eq_some _ _).mp hcs
      refine ⟨cs, rfl, ?_, by rw [← htake, List.take_append_drop]⟩
      rw [← List.length_map (f := charWord), ← htake, List.length_take]
      omega
    · cases h

-- The headers the encoder writes (R81 to R83).

theorem formatG_cmdWord (op : BitVec 8) (gid : BitVec 8) :
    formatG (cmdWord op (gid.setWidth 32)) = .single (.select gid) := by
  have harg : (argField (cmdWord op (gid.setWidth 32))).toNat = gid.toNat := by
    rw [argField_cmdWord, BitVec.toNat_setWidth]; omega
  have hgid : (cmdWord op (gid.setWidth 32)).extractLsb' 0 8 = gid := by
    rw [argField_toNat] at harg
    rw [← BitVec.toNat_inj, BitVec.extractLsb'_toNat, Nat.shiftRight_zero]
    omega
  rw [formatG, if_pos ((argGid_eq_zero _).mpr (by rw [harg]; exact gid.isLt)), hgid]

theorem formatX_cmdWord (op : BitVec 8) (ch : CharCode) :
    formatX (cmdWord op (ch.setWidth 32)) = .single (.char ch) := by simp [formatX]

theorem formatT_cmdWord (t : BitVec 4) (arg : BitVec 32) :
    formatT (cmdWord ((1 : BitVec 4) ++ t) arg) = .single (.seedOther t arg) := by
  have htag : (cmdWord ((1 : BitVec 4) ++ t) arg).extractLsb' 32 4 = t := by
    rw [← BitVec.toNat_inj, BitVec.extractLsb'_toNat, cmdWord_toNat, tagOp_toNat, Nat.shiftRight_eq_div_pow]
    omega
  rw [formatT, htag, argField_cmdWord]

/-- The header of a SEED_STR command announces the length of its text (R81, R85). -/
theorem decodeHeader_headerWord_seedStr {cs : List CharCode} (h : cs.length ≤ 256) :
    decodeHeader (headerWord (.seedStr cs)) = .text cs.length := by
  have harg : (argField (headerWord (.seedStr cs))).toNat = cs.length := by
    rw [headerWord, argField_cmdWord, BitVec.toNat_ofNat]; omega
  rw [decodeHeader_seedStr _ (by simp [headerWord]) (harg ▸ h), harg]

/-- The header of every other well-formed command is that command (R81 to R83). -/
theorem decodeHeader_headerWord {i : Instr} (hwf : i.wf = true) (hstr : ∀ cs, i ≠ .seedStr cs) :
    decodeHeader (headerWord i) = .single i := by
  cases i with
  | seedStr cs => exact absurd rfl (hstr cs)
  | seedNone => simp [headerWord, decodeHeader, formatN]
  | seedInt imm => simp [headerWord, decodeHeader]
  | seedOther t arg =>
    have htag : 3 ≤ t.toNat := of_decide_eq_true hwf
    have hop : (opField (headerWord (.seedOther t arg))).toNat = 0x10 + t.toNat := by
      rw [headerWord, opField_cmdWord, tagOp_toNat]
    rw [decodeHeader_of_op _ hop, if_neg (by omega), if_neg (by omega), if_neg (by omega), if_pos (by omega), headerWord,
      formatT_cmdWord]
  | next => simp [headerWord, decodeHeader, formatN]
  | nextInt => simp [headerWord, decodeHeader, formatN]
  | random imm => simp [headerWord, decodeHeader]
  | randomInt imm => simp [headerWord, decodeHeader]
  | select gid => simp [headerWord, decodeHeader, formatG_cmdWord]
  | restore => simp [headerWord, decodeHeader, formatN]
  | char ch => simp [headerWord, decodeHeader, formatX_cmdWord]

/-- Settles O1: a text by its length and its CHAR words, every other command by its header alone. -/
theorem encodedCommandDecodes : Obligations.EncodedCommandDecodes := by
  intro i rest hwf
  cases i with
  | seedStr cs =>
    have hext := decodeText_complete (headerWord (.seedStr cs)) (cs.map charWord) rest
    rw [charsOf_map_charWord, List.length_map] at hext
    exact (decode_of_text (decodeHeader_headerWord_seedStr (of_decide_eq_true hwf)) _).trans hext
  | _ => exact decode_of_single (decodeHeader_headerWord hwf nofun) rest

/-- Settles O2, by what the header says: one word is its own command, a SEED_STR is followed by its CHAR words. -/
theorem decodedCommandIsItsWords : Obligations.DecodedCommandIsItsWords := by
  intro ws i rest h
  cases ws with
  | nil => cases h
  | cons hdr ws =>
    cases e : decodeHeader hdr with
    | single j =>
      rw [decode_of_single e] at h
      cases h
      obtain ⟨hwf, hhdr, hext⟩ := decodeHeader_eq_single hdr i e
      exact ⟨hwf, by rw [encode, hhdr, hext]; rfl⟩
    | text len =>
      rw [decode_of_text e] at h
      obtain ⟨cs, rfl, rfl, rfl⟩ := decodeText_eq_instr h
      obtain ⟨hlen, hhdr⟩ := decodeHeader_eq_text hdr cs.length e
      exact ⟨decide_eq_true hlen, by rw [← hhdr]; rfl⟩
    | bad why =>
      rw [decode_of_bad e] at h
      cases h

/-- Settles O6: the decoder evaluated on each of the words. -/
theorem writtenOutWordsDecode : Obligations.WrittenOutWordsDecode :=
  ⟨by decide, by decide, by decide, by decide, by decide, by decide, by decide, by decide, by decide, by decide,
    by decide⟩

-- The opcode table (R83, R86).

/-- Two rows that share a word agree on the bits both of them fix. -/
theorem values_agree_of_rowMatches {r q : OpcodeRow} {w : CmdWord} (hr : rowMatches r w = true)
    (hq : rowMatches q w = true) : r.value &&& q.mask = q.value &&& r.mask := by
  have hrv : w &&& r.mask = r.value := of_decide_eq_true hr
  have hqv : w &&& q.mask = q.value := of_decide_eq_true hq
  rw [← hrv, ← hqv, BitVec.and_assoc, BitVec.and_assoc, BitVec.and_comm r.mask]

/-- Any two rows of the table differ in a bit that both of them fix. -/
theorem opcodeTable_eq_of_values_agree :
    ∀ r ∈ opcodeTable, ∀ q ∈ opcodeTable, r.value &&& q.mask = q.value &&& r.mask → r = q := by decide

/-- Settles O5: a shared word would make two rows agree where the table has them differ. -/
theorem opcodeRowsAreDisjoint : Obligations.OpcodeRowsAreDisjoint :=
  fun _ r hr q hq hrw hqw => opcodeTable_eq_of_values_agree r hr q hq (values_agree_of_rowMatches hrw hqw)

-- Illegal headers (R84).

/-- R84 (a): `OP` is not in the table. -/
theorem decodeHeader_unusedOpcode {w : CmdWord} (h : (opField w).toNat ≤ 0x0F ∨
      (0x24 ≤ (opField w).toNat ∧ (opField w).toNat ≤ 0x2F) ∨ (0x32 ≤ (opField w).toNat ∧ (opField w).toNat ≤ 0x7F) ∨
      0x81 ≤ (opField w).toNat) : decodeHeader w = .bad .unusedOpcode := by
  rw [decodeHeader_of_op w rfl]
  repeat rw [if_neg (by omega)]

theorem formatN_reserved {w : CmdWord} (i : Instr) (h : (argField w).toNat ≠ 0) : formatN w i = .bad .reservedField :=
  if_neg fun e => h (by rw [e]; rfl)

/-- R84 (c), format N: a one in `ARG`. -/
theorem decodeHeader_formatN_reserved {w : CmdWord} (hop : (opField w).toNat = 0x10 ∨ (opField w).toNat = 0x20 ∨
      (opField w).toNat = 0x21 ∨ (opField w).toNat = 0x31) (harg : (argField w).toNat ≠ 0) :
    decodeHeader w = .bad .reservedField := by
  rcases hop with h | h | h | h <;> exact (decodeHeader_of_op w h).trans (formatN_reserved _ harg)

/-- R84 (c), format G: a one above `gid`. -/
theorem decodeHeader_select_reserved {w : CmdWord} (hop : (opField w).toNat = 0x30)
    (harg : 2 ^ 8 ≤ (argField w).toNat) :
    decodeHeader w = .bad .reservedField :=
  (decodeHeader_of_op w hop).trans (if_neg fun e => absurd ((argGid_eq_zero w).mp e) (by omega))

/-- R84 (b), (c): a CHAR word decodes to CHAR or is illegal for a one above its character. -/
theorem decodeHeader_char {w : CmdWord} (hop : (opField w).toNat = 0x80) :
    decodeHeader w = .single (.char (argLow w)) ∨ decodeHeader w = .bad .reservedField := by
  rw [show decodeHeader w = formatX w from decodeHeader_of_op w hop, formatX]
  split
  · exact .inl rfl
  · exact .inr rfl

end Sys2Proof

namespace Sys2Proof.Machine

/-- An illegal header is taken off the command port alone and answered with one `IllegalCommand` beat (R84, R303). -/
theorem step_of_illegalHeader (s : State) {w : CmdWord} (h : ∃ why, decodeHeader w = .bad why) (rest : List CmdWord) :
    step { s with cmd := w :: rest } =
      .next (State.send { s with cmd := rest } [errorBeat .illegalCommand w]) := by
  obtain ⟨why, e⟩ := h
  exact step_of_illegal (s := { s with cmd := w :: rest }) (decode_of_bad e rest)

/-- A CHAR word that decodes runs as CHAR, whose error beat repeats that word (R84 (b)). -/
theorem step_of_charHeader (s : State) {w : CmdWord} {ch : CharCode} (h : decodeHeader w = .single (.char ch))
    (rest : List CmdWord) :
    step { s with cmd := w :: rest } = .next (State.send { s with cmd := rest } [errorBeat .illegalCommand w]) := by
  obtain ⟨-, rfl, -⟩ := decodeHeader_eq_single w _ h
  exact step_of_instr (s := { s with cmd := _ :: rest }) (decode_of_single h rest)

/-- Settles O3: each illegal header by its clause of R84, a malformed text by a word that carries no character. -/
theorem illegalCommandsChangeNothing : Obligations.IllegalCommandsChangeNothing := by
  constructor
  · intro s w rest op arg h
    rcases h with hunused | hchar | ⟨hop, harg⟩ | ⟨hop, harg⟩ | ⟨hop, harg⟩
    · exact step_of_illegalHeader s ⟨_, decodeHeader_unusedOpcode hunused⟩ rest
    · rcases decodeHeader_char hchar with e | e
      · exact step_of_charHeader s e rest
      · exact step_of_illegalHeader s ⟨_, e⟩ rest
    · exact step_of_illegalHeader s ⟨_, decodeHeader_formatN_reserved hop harg⟩ rest
    · exact step_of_illegalHeader s ⟨_, decodeHeader_select_reserved hop harg⟩ rest
    · exact step_of_illegalHeader s (decodeHeader_seedStr_bad w hop harg) rest
  · intro s hdr ext rest hop harg hlen hbad
    have hdec : decode (hdr :: (ext ++ rest)) = .illegal .malformedChar hdr rest := by
      rw [decode_of_text (decodeHeader_seedStr hdr hop harg), ← hlen, decodeText_complete, charsOf_eq_none ext hbad]
    exact step_of_illegal (s := { s with cmd := hdr :: (ext ++ rest) }) hdec

/-- Settles O4: with all its words there a text is characters or malformed, with fewer it waits. -/
theorem textTakesExactlyItsWords : Obligations.TextTakesExactlyItsWords := by
  intro hdr ext rest hop harg
  have hhdr := decodeHeader_seedStr hdr hop harg
  constructor
  · intro hlen
    rw [decode_of_text hhdr, ← hlen, decodeText_complete]
    cases charsOf ext with
    | some cs => exact .inl ⟨cs, rfl⟩
    | none => exact .inr rfl
  · intro hlen s
    exact step_of_waiting ((decode_of_text hhdr ext).trans (decodeText_waiting hdr _ ext hlen))

end Sys2Proof.Machine
end

section
/-! PROOFS. The family '30_encoding.md', the responses (R90, R300, R304): the fields of a beat, and the one response of
every command. -/

namespace Sys2Proof.Machine

-- The fields of a beat (R90).

theorem packBeat_status (b : Beat) : (packBeat b).extractLsb' 68 4 = statusCode b.status := by
  unfold packBeat
  rw [BitVec.extractLsb'_append_eq_of_le (by decide), BitVec.extractLsb'_append_eq_of_le (by decide),
    BitVec.extractLsb'_append_eq_of_le (by decide)]
  exact BitVec.extractLsb'_append_eq_left

theorem packBeat_kind (b : Beat) : (packBeat b).extractLsb' 66 2 = kindCode b.kind := by
  unfold packBeat
  rw [BitVec.extractLsb'_append_eq_of_le (by decide), BitVec.extractLsb'_append_eq_of_le (by decide),
    BitVec.extractLsb'_append_eq_of_le (by decide)]
  exact BitVec.extractLsb'_append_eq_right

theorem packBeat_seq (b : Beat) : (packBeat b).getLsbD 65 = b.seq := by
  unfold packBeat
  rw [BitVec.getLsbD_append, BitVec.getLsbD_append, BitVec.getLsbD_append]
  simp

theorem packBeat_data (b : Beat) : (packBeat b).extractLsb' 0 64 = b.data :=
  BitVec.extractLsb'_append_eq_right

/-- The code 3 stands for no kind (R90). -/
theorem packBeat_kind_ne_three (b : Beat) : (packBeat b).extractLsb' 66 2 ≠ 3 := by
  rw [packBeat_kind]
  cases b.kind <;> decide

/-- Settles O8, field by field. -/
theorem beatFieldsStandWhereTheRuleSays : Obligations.BeatFieldsStandWhereTheRuleSays :=
  ⟨⟨rfl, rfl, rfl, rfl, rfl, rfl, rfl⟩,
    fun b => ⟨packBeat_status b, packBeat_kind b, packBeat_seq b, packBeat_last b, packBeat_data b⟩⟩

/-- Settles O14: `DATA` of the error beat is the CHAR word as a number. -/
theorem charAsHeaderIsIllegal : Obligations.CharAsHeaderIsIllegal := by
  intro s ch
  refine ⟨(headerWord (.char ch)).setWidth 64, ?_, exec_char s ch⟩
  rw [BitVec.toNat_setWidth, headerWord, cmdWord_toNat, BitVec.toNat_setWidth]
  have hop : (0x80 : BitVec 8).toNat = 0x80 := rfl
  omega

-- One response for every command (R90, R300, R304, R308).

/-- The beats `bs` are a whole response with status `st`: `LAST` on the final beat only, an error a single beat. -/
structure Response (st : Status) (bs : List BeatWord) : Prop where
  nonempty : bs ≠ []
  single : st ≠ .ok → bs.length = 1
  beat : ∀ (j : Nat) (h : j < bs.length), bs[j].extractLsb' 68 4 = statusCode st ∧
    bs[j].getLsbD 64 = decide (j + 1 = bs.length) ∧ bs[j].extractLsb' 66 2 ≠ 3

/-- A single beat with `LAST` set is a response. -/
theorem response_packBeat (st : Status) (k : Kind) (seq : Bool) (d : Data64) :
    Response st [packBeat ⟨st, k, seq, true, d⟩] where
  nonempty := List.cons_ne_nil _ _
  single _ := rfl
  beat j h := by
    obtain rfl : j = 0 := Nat.lt_one_iff.mp h
    exact ⟨packBeat_status _, packBeat_last _, packBeat_kind_ne_three _⟩

theorem response_noValueBeat : Response .ok [noValueBeat] := response_packBeat ..

theorem response_valueBeat (k : Kind) (seq : Bool) (d : Data64) : Response .ok [valueBeat k seq true d] :=
  response_packBeat ..

theorem response_errorBeat (e : Status) (hdr : CmdWord) : Response e [errorBeat e hdr] := response_packBeat ..

/-- The beats of one value or more are a response (R90). -/
theorem response_valueBeats (k : Kind) (seq : Bool) {ds : List Data64} (hd : 0 < ds.length) :
    Response .ok (valueBeats k seq ds) where
  nonempty := List.ne_nil_of_length_pos (by rwa [valueBeats_length])
  single h := absurd rfl h
  beat j h := by
    rw [valueBeats_length] at h
    rw [valueBeats_get k seq ds j h, valueBeats_length]
    exact ⟨packBeat_status _, packBeat_last _, packBeat_kind_ne_three _⟩

/-- The result `r` of a command run in `s` is a next state after one response with status `st`. -/
def AnswersOnce (s : State) (st : Status) (r : Result) : Prop :=
  ∃ (t : State) (bs : List BeatWord), r = .next t ∧ t.resp = s.resp ++ bs ∧ Response st bs

/-- Work that sends no beat, then one response, answers once. -/
theorem answersOnce_send {s t : State} {st : Status} {bs : List BeatWord} (hresp : t.resp = s.resp)
    (h : Response st bs) : AnswersOnce s st (.next (t.send bs)) :=
  ⟨_, bs, rfl, by rw [send_resp, hresp], h⟩

theorem answersOnce_error (s : State) (e : Status) (hdr : CmdWord) :
    AnswersOnce s e (.next (s.send [errorBeat e hdr])) := answersOnce_send rfl (response_errorBeat e hdr)

/-- A generate command that runs its loop sends a beat for each of its values, of which there is at least one. -/
theorem answersOnce_emitMany (s : State) (k : Kind) (n : Int) : AnswersOnce s .ok (emitMany k n s) := by
  rw [emitMany_eq]
  refine answersOnce_send (generate_frame _ _ _).resp (response_valueBeats k _ ?_)
  rw [List.length_map, generate_length]
  exact valueCount_pos n

/-- Every command answers once, with its own status. -/
theorem exec_answersOnce (i : Instr) (s : State) : AnswersOnce s (statusOf i s) (exec i s) := by
  cases i with
  | seedNone => exact answersOnce_send (seedApply_resp ..) response_noValueBeat
  | seedInt imm => exact answersOnce_send (seedApply_resp ..) response_noValueBeat
  | seedStr cs =>
    by_cases hl : cs.length ≤ Config.maxSeedLen
    · rw [exec_seedStr s cs hl, statusOf, if_pos hl]
      exact answersOnce_send (seedApply_resp ..) response_noValueBeat
    · rw [exec_seedStr_long s cs hl, statusOf, if_neg hl]
      exact answersOnce_error ..
  | seedOther t arg => exact answersOnce_send rfl (response_errorBeat ..)
  | next => exact answersOnce_send rfl (response_valueBeat ..)
  | nextInt =>
    by_cases hi : givesIntegers s.cur = true
    · rw [exec_nextInt s hi, statusOf, if_pos hi]
      exact answersOnce_send rfl (response_valueBeat ..)
    · rw [exec_nextInt_unsupported s hi, statusOf, if_neg hi]
      exact answersOnce_error ..
  | random imm => exact answersOnce_emitMany ..
  | randomInt imm =>
    by_cases hi : givesIntegers s.cur = true
    · rw [exec_randomInt s imm hi, statusOf, if_pos hi]
      exact answersOnce_emitMany ..
    · rw [exec_randomInt_unsupported s imm hi, statusOf, if_neg hi]
      exact answersOnce_error ..
  | select gid =>
    cases e : coreOfGid gid with
    | none => rw [exec_select_unknown s gid e]; exact answersOnce_send rfl response_noValueBeat
    | some g =>
      by_cases hg : g = s.cur
      · rw [exec_select_same s gid (hg ▸ e)]; exact answersOnce_send rfl response_noValueBeat
      · rw [exec_select s gid g e hg]; exact answersOnce_send (seedApply_resp ..) response_noValueBeat
  | restore =>
    by_cases hr : s.noseedOf s.cur = false ∧ s.snapvOf s.cur = true
    · rw [exec_restore s hr]; exact answersOnce_send rfl response_noValueBeat
    · rw [exec_restore_noop s hr]; exact answersOnce_send rfl response_noValueBeat
  | char ch => exact answersOnce_error ..

/-- Settles O26, from the response of each command. -/
theorem everyCommandIsAnsweredOnce : Obligations.EveryCommandIsAnsweredOnce := by
  intro i s
  obtain ⟨t, bs, ht, hresp, hbs⟩ := exec_answersOnce i s
  exact ⟨t, bs, ht, hresp, hbs.nonempty, hbs.single, hbs.beat⟩

end Sys2Proof.Machine
end

section
/-! PROOFS. The family '40_commands.md', the step and the seed commands (R100, R105, R112 to R115): what `seed_apply`
leaves, from that what each seed command leaves, and the text seedings (R103, R106). -/

namespace Sys2Proof.Machine

/-- Settles O7: the step lemma of a whole command. -/
theorem stepRunsTheDecodedCommand : Obligations.StepRunsTheDecodedCommand := fun _ _ _ => step_of_instr

-- seed_apply (R105)

theorem noseedAfter_eq (sd : SeedVal) : noseedAfter sd = decide (sd = .none) := by cases sd <;> rfl

theorem snapvAfter_eq (sd : SeedVal) : snapvAfter sd = decide (sd ≠ .none) := by cases sd <;> rfl

/-- The snapshot of the seeded core: its new state for a seed that was given, untouched for an absent one (R105). -/
theorem coreState_seedApply_snap_eq (s : State) (g : CoreId) (sd : SeedVal) :
    coreState g (s.seedApply g sd).snap =
      if sd = .none then coreState g s.snap else coreState g (s.seedApply g sd).gen := by
  split
  · next h => subst h; rfl
  · next h => exact coreState_seedApply_snap s g sd h

theorem seedApply_seeded (s : State) (g : CoreId) (sd : SeedVal) : Seeded g sd s (s.seedApply g sd) where
  gen := coreState_seedApply_gen s g sd
  snap := coreState_seedApply_snap_eq s g sd
  noseed := by simp [noseedAfter_eq]
  snapv := by simp [snapvAfter_eq]
  recalc := by simp
  sampled := seedApply_sampled s g sd
  boot := seedApply_boot s g sd
  others _ ne := seedApply_sameCore s ne sd

theorem seedApply_sameLastSeed (s : State) (g : CoreId) (sd : SeedVal) : SameLastSeed s (s.seedApply g sd) :=
  ⟨seedApply_lsKind s g sd, seedApply_lsInt s g sd, seedApply_lsLen s g sd, seedApply_lsStr s g sd⟩

/-- Settles O9, from what a seeding leaves and its frame. -/
theorem seedApplyLeavesTheSeededState : Obligations.SeedApplyLeavesTheSeededState := fun s g sd =>
  ⟨seedApply_seeded s g sd, seedApply_cur s g sd, seedApply_sameLastSeed s g sd, seedApply_inst s g sd,
    seedApply_cmd s g sd, seedApply_resp s g sd⟩

/-- All that a seeding reads or writes is the same in `s` and `t`: the generators with their flags and counts, BOOT and
the entropy port. Recording a last seed and making a core current change none of it. -/
structure SameGenerators (s t : State) : Prop where
  gen : t.gen = s.gen
  snap : t.snap = s.snap
  noseed : t.noseed = s.noseed
  recalc : t.recalc = s.recalc
  snapv : t.snapv = s.snapv
  boot : t.boot = s.boot
  ent : t.ent = s.ent
  entCount : t.entCount = s.entCount

theorem SameGenerators.entropyWord {s t : State} (e : SameGenerators s t) : t.entropyWord = s.entropyWord := by
  simp only [State.entropyWord, e.ent, e.entCount]

theorem SameGenerators.sameCore {s t : State} (e : SameGenerators s t) (g : CoreId) : SameCore g s t where
  gen := by rw [e.gen]
  snap := by rw [e.snap]
  noseed := by simp only [State.noseedOf, e.noseed]
  recalc := by simp only [State.recalcOf, e.recalc]
  snapv := by simp only [State.snapvOf, e.snapv]

theorem SameCore.trans {g : CoreId} {s t u : State} (a : SameCore g s t) (b : SameCore g t u) : SameCore g s u :=
  ⟨b.gen.trans a.gen, b.snap.trans a.snap, b.noseed.trans a.noseed, b.recalc.trans a.recalc, b.snapv.trans a.snapv⟩

theorem SameCore.send {g : CoreId} {s t : State} (h : SameCore g s t) (bs : List BeatWord) : SameCore g s (t.send bs) :=
  ⟨h.gen, h.snap, h.noseed, h.recalc, h.snapv⟩

theorem Seeded.send {g : CoreId} {sd : SeedVal} {s t : State} (h : Seeded g sd s t) (bs : List BeatWord) :
    Seeded g sd s (t.send bs) :=
  ⟨h.gen, h.snap, h.noseed, h.snapv, h.recalc, ⟨h.sampled.count, h.sampled.rest⟩, h.boot,
    fun k ne => (h.others k ne).send bs⟩

/-- A command that prepares `s'` from `s` without touching a generator, and then seeds core `g`, has seeded `g`. -/
theorem SameGenerators.seeded {s s' : State} (e : SameGenerators s s') (g : CoreId) (sd : SeedVal) :
    Seeded g sd s (s'.seedApply g sd) := by
  have h := seedApply_seeded s' g sd
  exact {
    gen := e.entropyWord ▸ h.gen
    snap := e.snap ▸ h.snap
    noseed := h.noseed
    snapv := h.snapv
    recalc := h.recalc
    sampled := ⟨e.entCount ▸ h.sampled.count, e.ent ▸ h.sampled.rest⟩
    boot := fun hb => (h.boot hb).trans e.boot
    others := fun k ne => (e.sameCore k).trans (h.others k ne) }

theorem forgetSeed_sameGenerators (s : State) : SameGenerators s s.forgetSeed :=
  ⟨rfl, rfl, rfl, rfl, rfl, rfl, rfl, rfl⟩

theorem keepSeedInt_sameGenerators (s : State) (w : Word) : SameGenerators s (s.keepSeedInt w) :=
  ⟨rfl, rfl, rfl, rfl, rfl, rfl, rfl, rfl⟩

theorem keepSeedStr_sameGenerators (s : State) (cs : List CharCode) (h : cs.length ≤ Config.maxSeedLen) :
    SameGenerators s (s.keepSeedStr cs h) :=
  ⟨rfl, rfl, rfl, rfl, rfl, rfl, rfl, rfl⟩

-- SEED_NONE and SEED_INT (R112, R113)

/-- The time seed of a core is a word, since every modulus is at most 2^32 (R104). -/
theorem timeSeed_toNat (g : CoreId) (e : Word) : (timeSeed g e).toNat = e.toNat % modulus g := by
  obtain ⟨_, hle, _⟩ := modulus_range g
  have hlt := Nat.mod_lt e.toNat (show 0 < modulus g by omega)
  rw [timeSeed, BitVec.toNat_ofNat, Nat.mod_eq_of_lt (by omega)]

/-- Settles O10: forgetting the last seed touches no generator, and the seeding does the rest. -/
theorem seedNoneSeedsFromTheEntropyPort : Obligations.SeedNoneSeedsFromTheEntropyPort := by
  constructor
  · intro s
    refine ⟨_, exec_seedNone s, ((forgetSeed_sameGenerators s).seeded s.cur .none).send _, ?_⟩
    simp [noValueBeat]
  · exact fun g e => ⟨timeSeed_toNat g e, rfl⟩

/-- Settles O11: keeping the integer touches no generator, and the seeding does the rest. -/
theorem seedIntSeedsTheCurrentCore : Obligations.SeedIntSeedsTheCurrentCore := by
  intro s imm
  refine ⟨_, exec_seedInt s imm, ((keepSeedInt_sameGenerators s imm).seeded s.cur (.int imm)).send _, ?_⟩
  simp [noValueBeat]

-- SEED_STR (R103, R106, R114)

/-- `LS_STR` after a text has been written over it, index by index (R114). -/
theorem writeText_get (cs : List CharCode) (old : Vector CharCode Config.maxSeedLen) (i : Fin 256) :
    (writeText cs old)[i] = cs.getD i.val old[i] := by
  obtain ⟨_, h⟩ := List.getElem?_eq_some_iff.mp (overlay_get cs old.toList i.val (by simp))
  simpa [writeText] using h

/-- One more character is one more fold and then one more step (R106). -/
theorem scalarInitStr_append_singleton {σ : Type} (init0 : σ) (fold : σ → CharCode → σ) (stp : σ → Word × σ)
    (cs : List CharCode) (c : CharCode) :
    scalarInitStr init0 fold stp (cs ++ [c]) = (stp (fold (scalarInitStr init0 fold stp cs) c)).2 := by
  simp only [scalarInitStr, List.foldl_append, List.foldl_cons, List.foldl_nil]

/-- BOOT seeded with the empty text is BOOT seeded with 0 (R164, R166). -/
theorem bootSeedStr_nil : bootSeedStr [] = bootSeedInt 0 := rfl

/-- But on MT19937 and PHILOX, seeding with the empty text is seeding with 0 (R106, R114). -/
theorem genInitStr_nil {g : CoreId} (hmt : g ≠ .mt19937) (hph : g ≠ .philox) (G : Gens) (boot : Xs128) :
    genInitStr g [] G boot = genInitInt g 0 G boot := by
  cases g with
  | mt19937 => exact absurd rfl hmt
  | philox => exact absurd rfl hph
  | r250 | gfsr4 | tt800 | dx1597 | mrg5 | swb2712 => simp only [genInitStr, genInitInt, bootSeedStr_nil]
  | _ => rfl

/-- Settles O12: the last seed by the laws of LS_STR, the state of the core by `init_str`. -/
theorem seedStrSeedsTheCurrentCore : Obligations.SeedStrSeedsTheCurrentCore := by
  constructor
  · intro s cs hlen
    refine ⟨_, exec_seedStr s cs hlen, ((keepSeedStr_sameGenerators s cs hlen).seeded s.cur (.str cs)).send _, ?_⟩
    simpa [noValueBeat] using writeText_get cs s.lsStr
  · intro cs c G boot
    refine ⟨fun g _ => coreState_genInitStr_congr g cs _ _ _ _, fun g hg => ?_, ?_⟩
    · exact genInitStr_nil (fun e => absurd (e ▸ hg) (by decide)) (fun e => absurd (e ▸ hg) (by decide)) G boot
    · intro before after
      exact ⟨scalarInitStr_append_singleton .., scalarInitStr_append_singleton .., scalarInitStr_append_singleton ..,
        scalarInitStr_append_singleton .., scalarInitStr_append_singleton .., scalarInitStr_append_singleton ..,
        scalarInitStr_append_singleton .., scalarInitStr_append_singleton ..⟩

/-- The first word of MT19937 seeded with the empty text is the first draw of BOOT, not the integer 0 (R267). -/
theorem mt19937InitStr_nil_ne : (mt19937InitStr []).1 ≠ mt19937InitInt 0 := by
  intro e
  have hword : (mt19937InitStr []).1.buf[0] = (mt19937InitInt 0).buf[0] := by rw [e]
  rw [mt19937InitStr, mt19937InitInt_get _ 0 (by decide), mt19937InitInt_get _ 0 (by decide)] at hword
  exact absurd hword (by decide)

/-- The key of PHILOX seeded with the empty text is two draws of BOOT, not 0 (R287). -/
theorem philoxInitStr_nil_ne : (philoxInitStr []).1 ≠ philoxInitInt 0 :=
  fun e => absurd (congrArg Philox.key e) (by decide)

/-- Settles O33: the two exceptions differ in their first word and in their key. -/
theorem emptyTextIsSeedZero : Obligations.EmptyTextIsSeedZero := by
  intro g e
  constructor
  · intro hmt hph
    exact congrArg (fun p => coreState g p.1) (genInitStr_nil hmt hph Gens.zero ⟨0, 0, 0, 0⟩)
  · rintro (rfl | rfl) h
    · exact mt19937InitStr_nil_ne (CoreState.mt19937.inj h)
    · exact philoxInitStr_nil_ne (CoreState.philox.inj h)

-- SEED_OTHER (R115)

/-- Settles O13: `DATA` of the error beat is the header word as a number. -/
theorem seedOtherOnlySetsTheMode : Obligations.SeedOtherOnlySetsTheMode := by
  intro s tag arg _
  refine ⟨_, exec_seedOther s tag arg, fun g => ?_, fun g => ?_, rfl, rfl, rfl, rfl, rfl, rfl, rfl, rfl, rfl, rfl, rfl,
    rfl, rfl, (headerWord (.seedOther tag arg)).setWidth 64, ?_, rfl⟩
  · simp [eq_comm]
  · simp [eq_comm]
  · rw [BitVec.toNat_setWidth, headerWord, cmdWord_toNat, tagOp_toNat]
    omega

end Sys2Proof.Machine
end

section
/-! PROOFS. The family '40_commands.md', the generate commands (R109, R116 to R120): `book`, the loop and its frame, and
the values each command answers. -/

namespace Sys2Proof.Machine

-- The frame of the loop (R119, R120)

theorem LoopFrame.sameLastSeed {g : CoreId} {s t : State} (f : LoopFrame g s t) : SameLastSeed s t :=
  ⟨f.lsKind, f.lsInt, f.lsLen, f.lsStr⟩

theorem LoopFrame.sameCore {g : CoreId} {s t : State} (f : LoopFrame g s t) {h : CoreId} (ne : h ≠ g) :
    SameCore h s t := by
  obtain ⟨hgen, hrecalc⟩ := f.others h ne
  exact ⟨hgen, by rw [f.snap], f.noseedOf h, hrecalc, f.snapvOf h⟩

theorem LoopFrame.generateFrame {g : CoreId} {s t : State} (f : LoopFrame g s t) : GenerateFrame g s t :=
  ⟨f.cur, f.sameLastSeed, f.noseed, f.snapv, f.inst, f.snap, f.cmd, f.boot, fun _ ne => f.sameCore ne⟩

theorem SameLastSeed.trans {s t u : State} (a : SameLastSeed s t) (b : SameLastSeed t u) : SameLastSeed s u :=
  ⟨b.kind.trans a.kind, b.int.trans a.int, b.len.trans a.len, b.str.trans a.str⟩

theorem SameLastSeed.send {s t : State} (h : SameLastSeed s t) (bs : List BeatWord) : SameLastSeed s (t.send bs) :=
  ⟨h.kind, h.int, h.len, h.str⟩

theorem GenerateFrame.refl (g : CoreId) (s : State) : GenerateFrame g s s := (LoopFrame.refl g s).generateFrame

theorem GenerateFrame.trans {g : CoreId} {s t u : State} (a : GenerateFrame g s t) (b : GenerateFrame g t u) :
    GenerateFrame g s u :=
  ⟨b.cur.trans a.cur, a.lastSeed.trans b.lastSeed, b.noseed.trans a.noseed, b.snapv.trans a.snapv,
    b.inst.trans a.inst, b.snap.trans a.snap, b.cmd.trans a.cmd, fun h => (b.boot h).trans (a.boot h),
    fun h ne => (a.others h ne).trans (b.others h ne)⟩

/-- The frame says nothing of the response port. -/
theorem GenerateFrame.send {g : CoreId} {s t : State} (f : GenerateFrame g s t) (bs : List BeatWord) :
    GenerateFrame g s (t.send bs) :=
  ⟨f.cur, f.lastSeed.send bs, f.noseed, f.snapv, f.inst, f.snap, f.cmd, f.boot, fun h ne => (f.others h ne).send bs⟩

-- book (R109)

theorem eq_recalcLimit_iff (r : BitVec 17) : r = recalcLimit ↔ r.toNat = Config.recalcFreq := by
  rw [← recalcLimit_toNat, BitVec.toNat_inj]

/-- Settles O18, by the three things `book` can do. -/
theorem bookReseedsEveryRecalcFreqValues : Obligations.BookReseedsEveryRecalcFreqValues := by
  intro s g
  refine ⟨book_deterministic s g, fun hn hr => ?_, fun hn hr => ?_⟩
  · rw [book_counts s g hn (mt (eq_recalcLimit_iff _).mp hr)]
    exact ⟨by simp [State.countValue], rfl, fun h ne => by simp [State.countValue, Ne.symm ne]⟩
  · have frame := book_frame s g
    rw [book_reseeds s g hn ((eq_recalcLimit_iff _).mpr hr)] at frame ⊢
    exact ⟨by simp [State.countValue], coreState_genInitInt_congr .., ⟨rfl, List.drop_one.symm⟩, frame.generateFrame,
      frame.resp⟩

-- NEXT and NEXT_INT (R116, R117)

/-- Settles O15: a step of the current core leaves every other core alone. -/
theorem nextGivesOneFloat : Obligations.NextGivesOneFloat :=
  fun s => ⟨_, exec_next s, rfl, rfl, fun _ ne => coreState_genStep_other ne s.gen, rfl⟩

/-- Settles O16, as for NEXT: every core but DEFAULT gives integers. -/
theorem nextIntGivesOneRawWord : Obligations.NextIntGivesOneRawWord := fun s hcur =>
  ⟨_, exec_nextInt s ((givesIntegers_iff _).mpr hcur), rfl, rfl, fun _ ne => coreState_genStep_other ne s.gen, rfl⟩

-- RANDOM and RANDOM_INT (R118 to R120)

/-- Settles O19: an operand below 2^31 is its own count, one from 2^31 on is negative. -/
theorem countOperandIsSigned : Obligations.CountOperandIsSigned := by
  intro imm
  constructor
  · rintro ⟨htwo, hlt⟩
    have hn : countOperand imm = imm.toNat := BitVec.toInt_eq_toNat_of_lt (by omega)
    rw [hn, valueCount, if_neg (by omega), seqFlag]
    exact ⟨rfl, decide_eq_true (by omega)⟩
  · intro h
    have hn : countOperand imm ≤ 1 := by
      have := imm.isLt
      rw [countOperand, BitVec.toInt_eq_toNat_cond]
      split <;> omega
    exact ⟨if_pos hn, decide_eq_false (by omega)⟩

/-- What a generate command that runs its loop leaves and sends: the block after its rounds, one beat for each. -/
theorem emitMany_rounds (k : Kind) (n : Int) (s : State) :
    ∃ (t : State) (bs : List BeatWord), emitMany k n s = .next t ∧
      t = { loopState s.cur s (valueCount n) with resp := s.resp ++ bs } ∧ GenerateFrame s.cur s t ∧
      bs.length = valueCount n ∧
      ∀ (j : Nat) (h : j < bs.length), bs[j] =
        valueBeat k (seqFlag n) (decide (j + 1 = valueCount n)) (encodeRaw k s.cur (loopRaw s.cur s j)) := by
  have frame := generate_frame s.cur (valueCount n) s
  have hlen : ((State.generate s.cur (valueCount n) s).1.map (encodeRaw k s.cur)).length = valueCount n := by
    rw [List.length_map, generate_length]
  refine ⟨_, valueBeats k (seqFlag n) _, emitMany_eq s k n, ?_, frame.generateFrame.send _,
    (valueBeats_length ..).trans hlen, fun j h => ?_⟩
  · rw [← generate_state, State.send, frame.resp]
  · rw [valueBeats_length] at h
    rw [valueBeats_get _ _ _ j h, hlen, List.getElem_map, generate_get _ _ _ j (hlen ▸ h)]

/-- Settles O20, from the rounds of the loop. -/
theorem randomGivesItsCountOfFloats : Obligations.RandomGivesItsCountOfFloats :=
  fun s imm => emitMany_rounds .float (countOperand imm) s

/-- Settles O21, from the rounds of the loop: every core but DEFAULT gives integers. -/
theorem randomIntGivesItsCountOfWords : Obligations.RandomIntGivesItsCountOfWords := by
  intro s imm hcur
  rw [exec_randomInt s imm ((givesIntegers_iff _).mpr hcur)]
  exact emitMany_rounds .int (countOperand imm) s

/-- One round of the loop without bookkeeping is one step (R109). -/
theorem emitMany_one_deterministic (k : Kind) {s : State} (h : s.noseedOf s.cur = false) :
    emitMany k 1 s = emitOne k s := by
  have hround : State.generate s.cur (valueCount 1) s = ([s.rawOf s.cur], s.stepCore s.cur) := by
    rw [show valueCount 1 = 1 from rfl]
    simp only [State.generate, book_deterministic s s.cur h]
  rw [emitMany_eq, hround]
  rfl

/-- Settles O22, from the one round of the loop. -/
theorem nextIsRandomOneWhenDeterministic : Obligations.NextIsRandomOneWhenDeterministic := by
  intro s hdet
  have hone : countOperand 1 = 1 := by decide
  constructor
  · rw [exec_random, hone, emitMany_one_deterministic _ hdet]
    rfl
  · intro hcur
    have hint := (givesIntegers_iff _).mpr hcur
    rw [exec_randomInt s 1 hint, hone, emitMany_one_deterministic _ hdet, exec_nextInt s hint]
    rfl

end Sys2Proof.Machine
end

section
/-! PROOFS. The family '40_commands.md', the registry commands (R121, R122) and what follows for runs of commands: the
core a command touches (R101), the stream a seed determines and its replays (R122 to R124). -/

namespace Sys2Proof.Machine

-- SELECT and RESTORE (R121, R122)

/-- Settles O24, by what the number names. -/
theorem selectOfCurrentOrUnknownIsNoOp : Obligations.SelectOfCurrentOrUnknownIsNoOp := by
  rintro s gid (h | h)
  · exact exec_select_same s gid ((coreOfGid_eq_some gid s.cur).mpr h)
  · exact exec_select_unknown s gid ((coreOfGid_eq_none gid).mpr h)

/-- The switch of SELECT seeds core `g` with the last seed (R121). -/
theorem switchTo_seeded (s : State) (g : CoreId) : Seeded g s.lastSeed s (s.switchTo g) :=
  SameGenerators.seeded (s := s) (s' := { s.setInst g true with cur := g }) ⟨rfl, rfl, rfl, rfl, rfl, rfl, rfl, rfl⟩
    g s.lastSeed

@[simp] theorem switchTo_cur (s : State) (g : CoreId) : (s.switchTo g).cur = g := seedApply_cur ..

@[simp] theorem switchTo_cmd (s : State) (g : CoreId) : (s.switchTo g).cmd = s.cmd := seedApply_cmd ..

@[simp] theorem switchTo_resp (s : State) (g : CoreId) : (s.switchTo g).resp = s.resp := seedApply_resp ..

@[simp] theorem switchTo_lastSeed (s : State) (g : CoreId) : (s.switchTo g).lastSeed = s.lastSeed :=
  seedApply_lastSeed ..

@[simp] theorem switchTo_instOf (s : State) (g h : CoreId) :
    (s.switchTo g).instOf h = if h = g then true else s.instOf h := by
  rw [State.switchTo, seedApply_instOf]
  exact (setInst_instOf s g h true).trans (if_congr eq_comm rfl rfl)

theorem switchTo_sameLastSeed (s : State) (g : CoreId) : SameLastSeed s (s.switchTo g) :=
  ⟨seedApply_lsKind .., seedApply_lsInt .., seedApply_lsLen .., seedApply_lsStr ..⟩

/-- Settles O23, from what the switch seeds and keeps. -/
theorem selectSwitchesAndReseeds : Obligations.SelectSwitchesAndReseeds := by
  refine ⟨rfl, fun s gid g hgid ne => ?_⟩
  exact ⟨_, exec_select s gid g ((coreOfGid_eq_some gid g).mpr hgid) ne, switchTo_cur s g, switchTo_instOf s g,
    (switchTo_seeded s g).send _, (switchTo_sameLastSeed s g).send _, switchTo_cmd s g,
    congrArg (· ++ _) (switchTo_resp s g)⟩

/-- Settles O25, by whether the current core has a snapshot to go back to. -/
theorem restoreCopiesTheSnapshot : Obligations.RestoreCopiesTheSnapshot := by
  intro s
  by_cases h : s.noseedOf s.cur = false ∧ s.snapvOf s.cur = true
  · exact ⟨_, exec_restore s h, by simp [h], fun g ne => coreState_copyCore_other ne .., rfl, rfl⟩
  · exact ⟨_, exec_restore_noop s h, (if_neg h).symm, fun _ _ => rfl, rfl, rfl⟩

-- The core a command touches (R101, R121 (d))

/-- `t` has core `g` current, and no other core has been touched or constructed since `s`. -/
structure TouchesOnly (g : CoreId) (s t : State) : Prop where
  cur : t.cur = g
  others : ∀ h, h ≠ g → SameCore h s t ∧ t.instOf h = s.instOf h

theorem TouchesOnly.send {g : CoreId} {s t : State} (h : TouchesOnly g s t) (bs : List BeatWord) :
    TouchesOnly g s (t.send bs) where
  cur := h.cur
  others k ne := by
    obtain ⟨hsame, hinst⟩ := h.others k ne
    exact ⟨hsame.send bs, hinst⟩

theorem touchesOnly_refl (s : State) : TouchesOnly s.cur s s :=
  ⟨rfl, fun _ _ => ⟨⟨rfl, rfl, rfl, rfl, rfl⟩, rfl⟩⟩

/-- Seeding the current core, after a last seed has been recorded in `s'`, touches that core only. -/
theorem SameGenerators.touchesOnly {s s' : State} (e : SameGenerators s s') (hcur : s'.cur = s.cur)
    (hinst : s'.inst = s.inst) (sd : SeedVal) : TouchesOnly s.cur s (s'.seedApply s.cur sd) where
  cur := (seedApply_cur ..).trans hcur
  others h ne := ⟨(e.seeded s.cur sd).others h ne, by simp only [State.instOf, seedApply_inst, hinst]⟩

theorem LoopFrame.touchesOnly {s t : State} (f : LoopFrame s.cur s t) : TouchesOnly s.cur s t :=
  ⟨f.cur, fun h ne => ⟨f.sameCore ne, f.instOf h⟩⟩

theorem refuseSeed_touchesOnly (s : State) :
    TouchesOnly s.cur s ((s.setNoseed s.cur true).setSnapv s.cur false).forgetSeed where
  cur := rfl
  others h ne := ⟨⟨rfl, rfl, by simp [Ne.symm ne], rfl, by simp [Ne.symm ne]⟩, rfl⟩

theorem restoreSnapshot_touchesOnly (s : State) : TouchesOnly s.cur s (s.restoreSnapshot s.cur) :=
  ⟨rfl, fun _ ne => ⟨⟨coreState_copyCore_other ne .., rfl, rfl, rfl, rfl⟩, rfl⟩⟩

theorem switchTo_touchesOnly (s : State) (g : CoreId) : TouchesOnly g s (s.switchTo g) where
  cur := switchTo_cur s g
  others h ne := ⟨(switchTo_seeded s g).others h ne, (switchTo_instOf s g h).trans (if_neg ne)⟩

theorem emitMany_touchesOnly (k : Kind) (n : Int) (s : State) :
    ∃ t, emitMany k n s = .next t ∧ TouchesOnly s.cur s t :=
  ⟨_, emitMany_eq s k n, (generate_frame ..).touchesOnly.send _⟩

/-- Every command but SELECT touches only the core that was current before it. -/
theorem exec_touchesOnly (i : Instr) (s : State) (hsel : ∀ gid, i ≠ .select gid) :
    ∃ t, exec i s = .next t ∧ TouchesOnly s.cur s t := by
  cases i with
  | seedNone => exact ⟨_, exec_seedNone s, ((forgetSeed_sameGenerators s).touchesOnly rfl rfl _).send _⟩
  | seedInt imm => exact ⟨_, exec_seedInt s imm, ((keepSeedInt_sameGenerators s imm).touchesOnly rfl rfl _).send _⟩
  | seedStr cs =>
    by_cases hl : cs.length ≤ Config.maxSeedLen
    · exact ⟨_, exec_seedStr s cs hl, ((keepSeedStr_sameGenerators s cs hl).touchesOnly rfl rfl _).send _⟩
    · exact ⟨_, exec_seedStr_long s cs hl, (touchesOnly_refl s).send _⟩
  | seedOther t arg => exact ⟨_, exec_seedOther s t arg, (refuseSeed_touchesOnly s).send _⟩
  | next => exact ⟨_, exec_next s, (stepCore_frame s s.cur).touchesOnly.send _⟩
  | nextInt =>
    by_cases hi : givesIntegers s.cur = true
    · exact ⟨_, exec_nextInt s hi, (stepCore_frame s s.cur).touchesOnly.send _⟩
    · exact ⟨_, exec_nextInt_unsupported s hi, (touchesOnly_refl s).send _⟩
  | random imm => exact emitMany_touchesOnly .float (countOperand imm) s
  | randomInt imm =>
    by_cases hi : givesIntegers s.cur = true
    · rw [exec_randomInt s imm hi]; exact emitMany_touchesOnly .int (countOperand imm) s
    · exact ⟨_, exec_randomInt_unsupported s imm hi, (touchesOnly_refl s).send _⟩
  | select gid => exact absurd rfl (hsel gid)
  | restore =>
    by_cases hr : s.noseedOf s.cur = false ∧ s.snapvOf s.cur = true
    · exact ⟨_, exec_restore s hr, (restoreSnapshot_touchesOnly s).send _⟩
    · exact ⟨_, exec_restore_noop s hr, (touchesOnly_refl s).send _⟩
  | char ch => exact ⟨_, exec_char s ch, (touchesOnly_refl s).send _⟩

/-- SELECT touches only the core that is current after it. -/
theorem exec_select_touchesOnly (gid : BitVec 8) (s : State) :
    ∃ t, exec (.select gid) s = .next t ∧ ∃ g, TouchesOnly g s t := by
  cases e : coreOfGid gid with
  | none => exact ⟨_, exec_select_unknown s gid e, _, (touchesOnly_refl s).send _⟩
  | some g =>
    by_cases hg : g = s.cur
    · exact ⟨_, exec_select_same s gid (hg ▸ e), _, (touchesOnly_refl s).send _⟩
    · exact ⟨_, exec_select s gid g e hg, g, (switchTo_touchesOnly s g).send _⟩

/-- Settles O28, from the core each command touches. -/
theorem onlyTheCurrentCoreIsTouched : Obligations.OnlyTheCurrentCoreIsTouched := by
  intro i s t ht
  by_cases hsel : ∃ gid, i = .select gid
  · obtain ⟨gid, rfl⟩ := hsel
    obtain ⟨t', e, g, hcur, hothers⟩ := exec_select_touchesOnly gid s
    obtain rfl : t = t' := Host.Outcome.next.inj (ht.symm.trans e)
    exact ⟨hcur ▸ hothers, fun h => absurd rfl (h gid)⟩
  · have hne : ∀ gid, i ≠ .select gid := fun gid e => hsel ⟨gid, e⟩
    obtain ⟨t', e, hcur, hothers⟩ := exec_touchesOnly i s hne
    obtain rfl : t = t' := Host.Outcome.next.inj (ht.symm.trans e)
    exact ⟨hcur ▸ hothers, fun _ => hcur⟩

-- A seed that was given (R113, R114, R123)

/-- What SEED_INT and SEED_STR leave: the current core seeded with the value `sd`, which is kept as the last seed. -/
structure GivenSeed (sd : SeedVal) (s t : State) : Prop where
  given : sd ≠ .none
  cur : t.cur = s.cur
  lastSeed : t.lastSeed = sd
  seeded : Seeded s.cur sd s t

theorem givenSeed_seedInt {s t : State} {imm : BitVec 32} (h : exec (.seedInt imm) s = .next t) :
    GivenSeed (.int imm) s t := by
  obtain rfl := Host.Outcome.next.inj ((exec_seedInt s imm).symm.trans h)
  exact ⟨nofun, by simp, by simp, ((keepSeedInt_sameGenerators s imm).seeded s.cur _).send _⟩

theorem givenSeed_seedStr {s t : State} {cs : List CharCode} (hl : cs.length ≤ 256)
    (h : exec (.seedStr cs) s = .next t) : GivenSeed (.str cs) s t := by
  obtain rfl := Host.Outcome.next.inj ((exec_seedStr s cs hl).symm.trans h)
  exact ⟨nofun, by simp, by simp, ((keepSeedStr_sameGenerators s cs hl).seeded s.cur _).send _⟩

theorem givenSeed_of_seed {s t : State} {seed : Instr}
    (hseed : (∃ imm, seed = .seedInt imm) ∨ (∃ cs, seed = .seedStr cs ∧ cs.length ≤ 256))
    (h : exec seed s = .next t) : ∃ sd, GivenSeed sd s t := by
  rcases hseed with ⟨imm, rfl⟩ | ⟨cs, rfl, hl⟩
  · exact ⟨_, givenSeed_seedInt h⟩
  · exact ⟨_, givenSeed_seedStr hl h⟩

/-- Two seedings of one core with one value that was given leave the same state, whatever the ports carry (R123). -/
theorem Seeded.coreState_eq {g : CoreId} {sd : SeedVal} {s t s' t' : State} (hsd : sd ≠ .none) (h : Seeded g sd s t)
    (h' : Seeded g sd s' t') : coreState g t.gen = coreState g t'.gen := by
  rw [h.gen, h'.gen, initialState_of_given g sd hsd]

theorem GivenSeed.streamAt_eq {sd : SeedVal} {s₁ s₂ t₁ t₂ : State} (hcur : s₁.cur = s₂.cur) (h₁ : GivenSeed sd s₁ t₁)
    (h₂ : GivenSeed sd s₂ t₂) (k : Nat) : t₁.streamAt k = t₂.streamAt k := by
  unfold State.streamAt
  rw [h₁.cur, h₂.cur, ← hcur]
  exact rawAt_congr k (h₁.seeded.coreState_eq h₁.given (hcur ▸ h₂.seeded))

/-- Settles O29: the same value leaves the same state, whose stream is the same. -/
theorem seedDeterminesTheStream : Obligations.SeedDeterminesTheStream := fun _ _ _ _ hcur k =>
  ⟨fun _ h₁ h₂ => (givenSeed_seedInt h₁).streamAt_eq hcur (givenSeed_seedInt h₂) k,
    fun _ hl h₁ h₂ => (givenSeed_seedStr hl h₁).streamAt_eq hcur (givenSeed_seedStr hl h₂) k⟩

-- Replays after a run of generate commands (R122, R124)

/-- A generate command stays within the frame of the loop. -/
theorem generateFrame_exec {i : Instr} (hi : isGenerate i = true) (s : State) :
    ∃ t, exec i s = .next t ∧ GenerateFrame s.cur s t := by
  have unsupported : ∀ bs, GenerateFrame s.cur s (s.send bs) := (GenerateFrame.refl s.cur s).send
  have one : ∀ bs, GenerateFrame s.cur s ((s.stepCore s.cur).send bs) := (stepCore_frame s s.cur).generateFrame.send
  have many : ∀ k n, ∃ t, emitMany k n s = .next t ∧ GenerateFrame s.cur s t := fun k n =>
    ⟨_, emitMany_eq s k n, (generate_frame ..).generateFrame.send _⟩
  cases i with
  | next => exact ⟨_, exec_next s, one _⟩
  | nextInt =>
    by_cases hint : givesIntegers s.cur = true
    · exact ⟨_, exec_nextInt s hint, one _⟩
    · exact ⟨_, exec_nextInt_unsupported s hint, unsupported _⟩
  | random imm => exact many .float (countOperand imm)
  | randomInt imm =>
    by_cases hint : givesIntegers s.cur = true
    · rw [exec_randomInt s imm hint]; exact many .int (countOperand imm)
    · exact ⟨_, exec_randomInt_unsupported s imm hint, unsupported _⟩
  | _ => exact absurd hi nofun

theorem runInstrs_cons {i : Instr} {s t : State} (h : exec i s = .next t) (is : List Instr) :
    runInstrs (i :: is) s = runInstrs is t := by simp only [runInstrs, h]

/-- So does every run of generate commands. -/
theorem generateFrame_runInstrs {gs : List Instr} {s u : State} (hgs : ∀ i ∈ gs, isGenerate i = true)
    (h : runInstrs gs s = some u) : GenerateFrame s.cur s u := by
  induction gs generalizing s with
  | nil =>
    obtain rfl := Option.some.inj h
    exact GenerateFrame.refl s.cur s
  | cons i is ih =>
    obtain ⟨t, e, frame⟩ := generateFrame_exec (hgs i List.mem_cons_self) s
    rw [runInstrs_cons e] at h
    have rest := ih (fun j hj => hgs j (List.mem_cons_of_mem i hj)) h
    exact frame.trans (frame.cur ▸ rest)

theorem SameLastSeed.lastSeed_eq {s t : State} (h : SameLastSeed s t) : t.lastSeed = s.lastSeed :=
  lastSeed_congr h.kind h.int h.len h.str

/-- Settles O30: a run of generate commands leaves the mode and the snapshot of the seeding. -/
theorem restoreReplaysTheSeeding : Obligations.RestoreReplaysTheSeeding := by
  intro s t u seed gs hseed ht hgs hu
  obtain ⟨sd, hsd, htcur, _, hseeded⟩ := givenSeed_of_seed hseed ht
  have frame := generateFrame_runInstrs hgs hu
  have hucur : u.cur = s.cur := frame.cur.trans htcur
  have hdet : u.noseedOf u.cur = false := by
    simp only [State.noseedOf, frame.noseed, hucur]
    exact hseeded.noseed.trans (decide_eq_false hsd)
  have hsnapv : u.snapvOf u.cur = true := by
    simp only [State.snapvOf, frame.snapv, hucur]
    exact hseeded.snapv.trans (decide_eq_true hsd)
  refine ⟨_, exec_restore u ⟨hdet, hsnapv⟩, hucur, ?_⟩
  rw [send_gen, restoreSnapshot_gen, hucur, coreState_copyCore_self, frame.snap, hseeded.snap, if_neg hsd]

/-- SELECT of another core seeds it with the last seed and keeps that last seed (R121). -/
theorem exec_select_other {s : State} {g : CoreId} (ne : g ≠ s.cur) :
    ∃ t, exec (.select (BitVec.ofNat 8 g.idx.val)) s = .next t ∧ t.cur = g ∧ t.lastSeed = s.lastSeed ∧
      Seeded g s.lastSeed s t :=
  ⟨_, exec_select s _ g (coreOfGid_ofIdx g) ne, switchTo_cur s g, switchTo_lastSeed s g, (switchTo_seeded s g).send _⟩

/-- Settles O31: both switches seed with the last seed, which is still the one that was given. -/
theorem reselectReplaysTheSeeding : Obligations.ReselectReplaysTheSeeding := by
  intro s t u seed gs g hseed ht hgs hu ne
  obtain ⟨sd, hsd, htcur, hlast, hseeded⟩ := givenSeed_of_seed hseed ht
  have frame := generateFrame_runInstrs hgs hu
  have hulast : u.lastSeed = sd := frame.lastSeed.lastSeed_eq.trans hlast
  have hne : g ≠ u.cur := (frame.cur.trans htcur).symm ▸ ne
  obtain ⟨w, hw, hwcur, hwlast, _⟩ := exec_select_other hne
  obtain ⟨v, hv, hvcur, _, replay⟩ := exec_select_other (hwcur.symm ▸ ne.symm : s.cur ≠ w.cur)
  rw [hwlast, hulast] at replay
  exact ⟨v, (runInstrs_cons hw _).trans (runInstrs_cons hv []), hvcur, replay.coreState_eq hsd hseeded⟩

end Sys2Proof.Machine
end

section
/-! PROOFS. The family '40_commands.md', the outputs (R110, R111): the range of the raw outputs, the bits of the
normalised ones, and their distance from the quotient they stand for. -/

namespace Sys2Proof.Machine

-- Raw outputs (R6, R111)

/-- The raw output of PARKMILLER is its new residue (R177). -/
theorem parkMillerStep_output (st : ParkMiller) : (parkMillerStep st).1.toNat = (parkMillerStep st).2.x.toNat := by
  have hlt : modmul st.x.toNat 16807 Config.m31 < Config.m31 := modmul_lt _ _ (by decide)
  exact (ofNat32_toNat _ hlt).trans (ofNat31_toNat _ hlt).symm

/-- The raw output of KNUTHRAN2 is its new residue (R203). -/
theorem knuthran2Step_output (st : Knuthran2) : (knuthran2Step st).1.toNat = (knuthran2Step st).2.x1.toNat := by
  have hlt := addmod_lt (Nat.two_mul Config.m31 ▸ Nat.add_lt_add
    (modmul_lt st.x1.toNat 271828183 (m := Config.m31) (by decide))
    (modmul_lt st.x0.toNat 1833324378 (m := Config.m31) (by decide)))
  exact (ofNat32_toNat _ hlt).trans (ofNat31_toNat _ hlt).symm

/-- A word just pushed is a residue where all words of the buffer are. -/
theorem lt_m31_of_push_residues {K : Nat} {b : Buffer K} {v : Word} (h : (push b v).Residues) :
    v.toNat < Config.m31 := by
  have := h b.p
  rwa [push_get_self] at this

/-- From legal registers the raw output of core `g` is below `M[g]`, since it stands in a register that the step leaves
legal, and every word is below `M32` (R111). -/
theorem genStep_output_lt {g : CoreId} {G : Gens} (h : legalCore g G) : (genStep g G).1.toNat < modulus g := by
  have hnext := legalCore_genStep h
  cases g with
  | parkMiller =>
    obtain ⟨_, hle⟩ := hnext
    exact (parkMillerStep_output G.parkMiller).trans_lt (Nat.lt_of_le_of_lt hle (by decide))
  | knuthran2 =>
    obtain ⟨_, hlt, _⟩ := hnext
    exact (knuthran2Step_output G.knuthran2).trans_lt hlt
  | dx1597 => exact lt_m31_of_push_residues (b := G.dx1597) hnext
  | mrg5 => exact lt_m31_of_push_residues (b := G.mrg5) hnext
  | _ => exact BitVec.isLt _

theorem parkMiller_output_pos {G : Gens} (h : legalCore .parkMiller G) : 1 ≤ (genStep .parkMiller G).1.toNat := by
  obtain ⟨hpos, _⟩ := parkMillerStep_legal G.parkMiller h
  exact hpos.trans_eq (parkMillerStep_output G.parkMiller).symm

-- The bits of a normalised output (R91, R110). The quotient is `n / d` in (0, 1), its parts no wider than a word.

section quotient
variable {n d : Nat} (hn : 0 < n) (hd : n < d) (hd32 : d ≤ 2 ^ 32)
include hd hd32

/-- The quotient stays so far below 1 that rounding does not reach 1 (R111). -/
theorem normSignificand_lt (hk : normShift n d = 53) : normSignificand n d < 2 ^ 53 := by
  obtain ⟨_, hle, _⟩ := roundNearestEven_spec (n * 2 ^ normShift n d) d (by omega)
  rw [← normSignificand, hk] at hle
  by_contra h
  have : 2 * 2 ^ 53 * d ≤ 2 * normSignificand n d * d := Nat.mul_le_mul_right d (by omega)
  omega

include hn

/-- The scaling power of a quotient of words (R110). -/
theorem normShift_range : 53 ≤ normShift n d ∧ normShift n d ≤ 84 := by
  obtain ⟨hlow, hhigh⟩ := normShift_spec n d hn hd
  constructor
  · by_contra h
    have : n * 2 ^ normShift n d ≤ n * 2 ^ 52 := Nat.mul_le_mul_left n (Nat.pow_le_pow_right (by decide) (by omega))
    omega
  · by_contra h
    have : 1 * 2 ^ 85 ≤ n * 2 ^ normShift n d := Nat.mul_le_mul hn (Nat.pow_le_pow_right (by decide) (by omega))
    omega

/-- The bits of 2^-32 and of 1.0 bound those of the quotient (R111). -/
theorem binary64_range : 0x3DF0000000000000 ≤ binary64 n d ∧ binary64 n d < 0x3FF0000000000000 := by
  obtain ⟨hk, hk'⟩ := normShift_range hn hd hd32
  obtain ⟨hs, hs'⟩ := normSignificand_range n d hn hd
  have hone := normSignificand_lt hd hd32
  rw [binary64, if_neg (by omega)]
  omega

end quotient

theorem norm_zero (g : CoreId) : norm g 0 = 0 := rfl

theorem toNat_pos_of_ne_zero {w : Nat} {x : BitVec w} (h : x ≠ 0#w) : 0 < x.toNat :=
  Nat.pos_of_ne_zero fun e => h (BitVec.eq_of_toNat_eq (e.trans BitVec.toNat_zero.symm))

/-- The bits of a normalised output are those of the quotient (R110). -/
theorem norm_toNat (g : CoreId) {raw : Word} (hn : 0 < raw.toNat) (hlt : raw.toNat < modulus g) :
    (norm g raw).toNat = binary64 raw.toNat (modulus g) := by
  obtain ⟨_, hle, _⟩ := modulus_range g
  obtain ⟨_, hhigh⟩ := binary64_range hn hlt hle
  rw [norm, BitVec.toNat_ofNat, Nat.mod_eq_of_lt (by omega)]

/-- Settles O40, from the legal registers each output stands in and the range of the bits of a quotient. -/
theorem outputsLieInTheirRanges : Obligations.OutputsLieInTheirRanges := by
  refine ⟨fun g => by cases g <;> rfl, fun g G h => ⟨genStep_output_lt h, ?_⟩, fun g raw hlt => ⟨?_, fun hraw => ?_⟩⟩
  · rintro rfl
    exact parkMiller_output_pos h
  · rintro rfl
    exact norm_zero g
  · obtain ⟨_, hle, _⟩ := modulus_range g
    rw [norm_toNat g (toNat_pos_of_ne_zero hraw) hlt]
    exact binary64_range (toNat_pos_of_ne_zero hraw) hlt hle

-- The value of a binary64 number on the grid of a power of two (R91)

/-- Exponent and fraction of a bit pattern written as one number (R91). -/
theorem exponent_fraction {d : Data64} {e f : Nat} (hf : f < 2 ^ 52) (h : d.toNat = e * 2 ^ 52 + f) :
    d.toNat / 2 ^ 52 = e ∧ d.toNat % 2 ^ 52 = f := by omega

/-- A number with a biased exponent other than 0 has a leading bit that is not stored (R91). -/
theorem binary64Value_normal {d : Data64} {e f : Nat} (he : e ≠ 0) (hf : f < 2 ^ 52) (h : d.toNat = e * 2 ^ 52 + f) :
    binary64Value d = ((2 ^ 52 + f : Nat) : ℚ) * (2 : ℚ) ^ ((e : Int) - 1075) := by
  obtain ⟨hexp, hfrac⟩ := exponent_fraction hf h
  simp only [binary64Value, hexp, hfrac, if_neg he]

/-- A bit pattern with biased exponent 0 counts multiples of `2^-1074` (R91). -/
theorem binary64Value_subnormal {d : Data64} (h : d.toNat < 2 ^ 52) :
    binary64Value d = (d.toNat : ℚ) * (2 : ℚ) ^ (-1074 : Int) := by
  simp only [binary64Value, Nat.div_eq_of_lt h, Nat.mod_eq_of_lt h, if_true]

/-- From exponent `1075 - k` on, a binary64 number is a multiple of `2^-k`. -/
theorem binary64Value_mul_pow {k j f : Nat} {d : Data64} (hk : k ≤ 1074) (hf : f < 2 ^ 52)
    (h : d.toNat = (1075 - k + j) * 2 ^ 52 + f) : binary64Value d * 2 ^ k = (((2 ^ 52 + f) * 2 ^ j : Nat) : ℚ) := by
  have hexp : ((1075 - k + j : Nat) : Int) - 1075 + k = j := by omega
  rw [binary64Value_normal (by omega) hf h, mul_assoc, ← zpow_natCast (2 : ℚ) k, ← zpow_add₀ two_ne_zero, hexp,
    zpow_natCast]
  push_cast
  rfl

/-- Below that exponent it is less than `2^52` times `2^-k`. -/
theorem binary64Value_mul_pow_lt {k : Nat} {d : Data64} (hk : k ≤ 1074) (h : d.toNat / 2 ^ 52 < 1075 - k) :
    binary64Value d * 2 ^ k < 2 ^ 52 := by
  have hf : d.toNat % 2 ^ 52 < 2 ^ 52 := Nat.mod_lt _ (by decide)
  have hsplit : d.toNat = d.toNat / 2 ^ 52 * 2 ^ 52 + d.toNat % 2 ^ 52 := by omega
  by_cases he : d.toNat / 2 ^ 52 = 0
  · have hsub : d.toNat < 2 ^ 52 := by omega
    have hpow : (2 : ℚ) ^ (-1074 + k : Int) ≤ 1 := zpow_le_one_of_nonpos₀ one_le_two (by omega)
    have hlt : (d.toNat : ℚ) < 2 ^ 52 := mod_cast hsub
    rw [binary64Value_subnormal hsub, mul_assoc, ← zpow_natCast (2 : ℚ) k, ← zpow_add₀ two_ne_zero]
    exact (mul_le_of_le_one_right (Nat.cast_nonneg _) hpow).trans_lt hlt
  · have hpow : (2 : ℚ) ^ ((d.toNat / 2 ^ 52 : Nat) - 1075 + k : Int) ≤ 2 ^ (-1 : Int) :=
      zpow_le_zpow_right₀ one_le_two (by omega)
    have hlt : ((2 ^ 52 + d.toNat % 2 ^ 52 : Nat) : ℚ) < 2 ^ 53 := by
      have : 2 ^ 52 + d.toNat % 2 ^ 52 < 2 ^ 53 := by omega
      exact mod_cast this
    rw [binary64Value_normal he hf hsplit, mul_assoc, ← zpow_natCast (2 : ℚ) k, ← zpow_add₀ two_ne_zero]
    calc ((2 ^ 52 + d.toNat % 2 ^ 52 : Nat) : ℚ) * 2 ^ ((d.toNat / 2 ^ 52 : Nat) - 1075 + k : Int)
        ≤ ((2 ^ 52 + d.toNat % 2 ^ 52 : Nat) : ℚ) * 2 ^ (-1 : Int) :=
          mul_le_mul_of_nonneg_left hpow (Nat.cast_nonneg _)
      _ < 2 ^ 53 * 2 ^ (-1 : Int) := mul_lt_mul_of_pos_right hlt (by norm_num)
      _ = 2 ^ 52 := by norm_num

theorem binary64Value_zero : binary64Value 0 = 0 := by simp [binary64Value]

/-- Only +0.0 has the value 0. -/
theorem binary64Value_pos {d : Data64} (h : d ≠ 0) : 0 < binary64Value d := by
  have hpos := toNat_pos_of_ne_zero h
  by_cases hsub : d.toNat < 2 ^ 52
  · rw [binary64Value_subnormal hsub]
    positivity
  · rw [binary64Value_normal (e := d.toNat / 2 ^ 52) (f := d.toNat % 2 ^ 52) (by omega) (by omega) (by omega)]
    positivity

-- Nearest (R110)

/-- The significand is within one half of the scaled quotient, since no tie can occur (R110). -/
theorem abs_normSignificand_sub_lt {n d : Nat} (hd : 0 < d) (htie : d % 2 = 1 ∨ d ∣ n * 2 ^ normShift n d) :
    |(normSignificand n d : ℚ) - n / d * 2 ^ normShift n d| < 1 / 2 := by
  obtain ⟨_, _, hround⟩ := roundNearestEven_spec (n * 2 ^ normShift n d) d hd
  obtain ⟨hup, hdown⟩ := hround htie
  rw [← normSignificand] at hup hdown
  have hd' : (0 : ℚ) < d := mod_cast hd
  have hup' : 2 * ((n : ℚ) * 2 ^ normShift n d) < (2 * normSignificand n d + 1) * d := mod_cast hup
  have hdown' : 2 * (normSignificand n d : ℚ) * d < 2 * (n * 2 ^ normShift n d) + d := mod_cast hdown
  have hscaled : (n / d * 2 ^ normShift n d : ℚ) * d = n * 2 ^ normShift n d := by field_simp
  rw [abs_lt]
  constructor
  · refine lt_of_mul_lt_mul_right ?_ hd'.le
    linarith
  · refine lt_of_mul_lt_mul_right ?_ hd'.le
    linarith

/-- A number within one half of an integer is farther from every other integer. -/
theorem abs_sub_lt_of_ne {S T : Nat} {x : ℚ} (hS : |(S : ℚ) - x| < 1 / 2) (ne : T ≠ S) :
    |(S : ℚ) - x| < |(T : ℚ) - x| := by
  have hone : (1 : ℚ) ≤ |(T : ℚ) - S| := by
    have : (1 : Int) ≤ |(T : Int) - S| := Int.one_le_abs (by omega)
    exact mod_cast this
  have htri : |(T : ℚ) - S| ≤ |(T : ℚ) - x| + |x - S| := abs_sub_le _ _ _
  rw [abs_sub_comm x] at htri
  linarith

/-- Where `S` is within one half of `x` and `x` is `2^52` or more, every other integer and every number below `2^52` is
farther from `x`. -/
theorem abs_sub_lt_of_grid {S : Nat} {x v : ℚ} (hS : |(S : ℚ) - x| < 1 / 2) (hx : 2 ^ 52 ≤ x)
    (hv : v < 2 ^ 52 ∨ ∃ T : Nat, T ≠ S ∧ v = T) : |(S : ℚ) - x| < |v - x| := by
  rcases hv with hbelow | ⟨T, ne, rfl⟩
  · have hleast : |(S : ℚ) - x| ≤ |((2 ^ 52 : Nat) : ℚ) - x| := by
      by_cases h : 2 ^ 52 = S
      · rw [h]
      · exact (abs_sub_lt_of_ne hS h).le
    calc |(S : ℚ) - x| ≤ |((2 ^ 52 : Nat) : ℚ) - x| := hleast
      _ = x - 2 ^ 52 := by rw [Nat.cast_pow, Nat.cast_ofNat, abs_sub_comm, abs_of_nonneg (sub_nonneg.mpr hx)]
      _ < x - v := sub_lt_sub_left hbelow x
      _ ≤ |v - x| := by rw [abs_sub_comm]; exact le_abs_self _
  · exact abs_sub_lt_of_ne hS ne

section quotient
variable {n d : Nat} (hn : 0 < n) (hd : n < d) (hd32 : d ≤ 2 ^ 32)
include hn hd

/-- The scaled quotient is at least `2^52` (R110). -/
theorem two_pow_le_scaled : (2 : ℚ) ^ 52 ≤ n / d * 2 ^ normShift n d := by
  obtain ⟨hlow, _⟩ := normShift_spec n d hn hd
  have hlow' : (2 : ℚ) ^ 52 * d ≤ n * 2 ^ normShift n d := mod_cast hlow
  rwa [div_mul_eq_mul_div, le_div_iff₀ (mod_cast hn.trans hd)]

include hd32

/-- The bits of a quotient stand for its significand over the scaling power (R91, R110). -/
theorem binary64Value_binary64 {x : Data64} (hx : x.toNat = binary64 n d) :
    binary64Value x * 2 ^ normShift n d = normSignificand n d := by
  obtain ⟨_, hk⟩ := normShift_range hn hd hd32
  obtain ⟨hs, hs'⟩ := normSignificand_range n d hn hd
  rw [binary64, if_neg hn.ne'] at hx
  rcases hs'.lt_or_eq with hlt | heq
  · have hbits : x.toNat = (1075 - normShift n d + 0) * 2 ^ 52 + (normSignificand n d - 2 ^ 52) := by grind
    rw [binary64Value_mul_pow (by omega) (by omega) hbits, pow_zero, mul_one, Nat.add_sub_cancel' hs]
  · have hbits : x.toNat = (1075 - normShift n d + 1) * 2 ^ 52 + 0 := by grind
    rw [binary64Value_mul_pow (by omega) (by decide) hbits, heq]
    rfl

/-- Only those bits stand for it. -/
theorem toNat_eq_binary64 {x : Data64} {j f : Nat} (hf : f < 2 ^ 52)
    (hx : x.toNat = (1075 - normShift n d + j) * 2 ^ 52 + f) (hS : (2 ^ 52 + f) * 2 ^ j = normSignificand n d) :
    x.toNat = binary64 n d := by
  obtain ⟨_, hk⟩ := normShift_range hn hd hd32
  obtain ⟨_, hs'⟩ := normSignificand_range n d hn hd
  rw [← hS] at hs'
  have hj : j ≤ 1 := by
    by_contra h
    have : (2 ^ 52 + f) * 2 ^ 2 ≤ (2 ^ 52 + f) * 2 ^ j :=
      Nat.mul_le_mul_left _ (Nat.pow_le_pow_right (by decide) (by omega))
    omega
  rw [binary64, if_neg hn.ne', ← hS]
  interval_cases j <;> grind

/-- Every other bit pattern stands below the binade of the quotient or at another integer of the grid. -/
theorem binary64Value_off_grid {x : Data64} (hx : x.toNat ≠ binary64 n d) :
    binary64Value x * 2 ^ normShift n d < 2 ^ 52 ∨
      ∃ T : Nat, T ≠ normSignificand n d ∧ binary64Value x * 2 ^ normShift n d = T := by
  obtain ⟨_, hk⟩ := normShift_range hn hd hd32
  by_cases hgrid : x.toNat / 2 ^ 52 < 1075 - normShift n d
  · exact .inl (binary64Value_mul_pow_lt (by omega) hgrid)
  · have hf : x.toNat % 2 ^ 52 < 2 ^ 52 := Nat.mod_lt _ (by decide)
    obtain ⟨j, hj⟩ := Nat.exists_eq_add_of_le (Nat.not_lt.mp hgrid)
    have hbits : x.toNat = (1075 - normShift n d + j) * 2 ^ 52 + x.toNat % 2 ^ 52 := by omega
    exact .inr ⟨_, fun hS => hx (toNat_eq_binary64 hn hd hd32 hf hbits hS), binary64Value_mul_pow (by omega) hf hbits⟩

/-- No tie occurs where the divisor is odd or 2^32: in the latter case the scaled quotient is an integer (R110). -/
theorem norm_no_tie (hmod : d = 2 ^ 32 ∨ d = 2 ^ 31 - 1) : d % 2 = 1 ∨ d ∣ n * 2 ^ normShift n d := by
  obtain ⟨hk, _⟩ := normShift_range hn hd hd32
  rcases hmod with h | h
  · have hdvd : 2 ^ 32 ∣ n * 2 ^ normShift n d := (pow_dvd_pow 2 (by omega)).mul_left n
    exact .inr (h.symm ▸ hdvd)
  · exact .inl (h ▸ rfl)

/-- The bits of the quotient stand nearer to it than all others (R110). -/
theorem binary64_nearest (hmod : d = 2 ^ 32 ∨ d = 2 ^ 31 - 1) {x y : Data64} (hx : x.toNat = binary64 n d)
    (hy : y.toNat ≠ binary64 n d) : |binary64Value x - n / d| < |binary64Value y - n / d| := by
  have hhalf := abs_normSignificand_sub_lt (hn.trans hd) (norm_no_tie hn hd hd32 hmod)
  have hnear := abs_sub_lt_of_grid hhalf (two_pow_le_scaled hn hd) (binary64Value_off_grid hn hd hd32 hy)
  rw [← binary64Value_binary64 hn hd hd32 hx, ← sub_mul, ← sub_mul, abs_mul, abs_mul] at hnear
  exact lt_of_mul_lt_mul_right hnear (abs_nonneg _)

end quotient

/-- Settles O39: 0 is exact; any other quotient is compared after scaling by the power of `norm`. -/
theorem normIsTheNearestBinary64 : Obligations.NormIsTheNearestBinary64 := by
  intro g raw d hlt _ ne
  by_cases hraw : raw = 0
  · subst hraw
    rw [norm_zero] at ne ⊢
    have hquot : ((0 : Word).toNat : ℚ) / modulus g = 0 := by simp
    rw [hquot, binary64Value_zero, sub_zero, sub_zero, abs_zero]
    exact abs_pos.mpr (binary64Value_pos ne).ne'
  · obtain ⟨_, hle, hmod⟩ := modulus_range g
    have hbits := norm_toNat g (toNat_pos_of_ne_zero hraw) hlt
    exact binary64_nearest (toNat_pos_of_ne_zero hraw) hlt hle hmod hbits fun e =>
      ne (BitVec.eq_of_toNat_eq (e.trans hbits.symm))

end Sys2Proof.Machine
end

section
/-! PROOFS. The family '41_modmul.md', the modular-multiplication unit. After the digit positions below `n` each form
of the unit holds the product of `b` by the `n` low digits of `a`; ten positions hold every word. -/

namespace Sys2Proof.Machine

-- The modular sum (R149)

/-- Where one subtraction is enough, `addmod` is the residue of the sum (R149). -/
theorem addmod_eq_mod {a b m : Nat} (h : a + b < 2 * m) : addmod a b m = (a + b) % m := by
  unfold addmod
  split
  · next hle => rw [Nat.mod_eq_sub_mod hle, Nat.mod_eq_of_lt (by omega)]
  · next hlt => rw [Nat.mod_eq_of_lt (Nat.not_le.mp hlt)]

theorem addmod_residues (x y : Nat) {m : Nat} (hm : 0 < m) : addmod (x % m) (y % m) m = (x + y) % m := by
  have hx := Nat.mod_lt x hm
  have hy := Nat.mod_lt y hm
  rw [addmod_eq_mod (by omega), ← Nat.add_mod]

-- The digits of the operand (R142, R143)

/-- One digit more of the operand adds its table entry (R144). -/
theorem addmod_tableEntry_digitOf (a b n : Nat) {m : Nat} (hm : 0 < m) :
    addmod (a % 10 ^ n * b % m) (tableEntry b m n (digitOf a n)) m = a % 10 ^ (n + 1) * b % m :=
  calc addmod (a % 10 ^ n * b % m) (tableEntry b m n (digitOf a n)) m
      = (a % 10 ^ n * b + a / 10 ^ n % 10 * b * 10 ^ n) % m := addmod_residues _ _ hm
    _ = (a % 10 ^ n + 10 ^ n * (a / 10 ^ n % 10)) * b % m := by congr 1; ring
    _ = a % 10 ^ (n + 1) * b % m := by rw [Nat.mod_pow_succ]

/-- The ten digit positions hold every word (R142). -/
theorem word_lt_ten_digits {a : Nat} (ha : a < 2 ^ 32) : a < 10 ^ 10 := by omega

-- The digit method (R144)

theorem foldl_tableEntry_range (a b n : Nat) {m : Nat} (hm : 0 < m) :
    (List.range n).foldl (fun acc k => addmod acc (tableEntry b m k (digitOf a k)) m) 0 = a % 10 ^ n * b % m := by
  induction n with
  | zero => simp [Nat.mod_one]
  | succ n ih => rw [List.range_succ, List.foldl_append, ih]; exact addmod_tableEntry_digitOf a b n hm

theorem modmulDigits_eq_modmul {a : Nat} (b : Nat) {m : Nat} (ha : a < 2 ^ 32) (hm : 0 < m) :
    modmulDigits a b m = modmul a b m :=
  (foldl_tableEntry_range a b 10 hm).trans (by rw [Nat.mod_eq_of_lt (word_lt_ten_digits ha), modmul])

-- The pipeline (R146)

/-- A stage takes off the digit at its position and adds that digit's table entry. -/
theorem pipeStep_eq (a b acc m n : Nat) :
    pipeStep b m ⟨a / 10 ^ n, acc⟩ n = ⟨a / 10 ^ (n + 1), addmod acc (tableEntry b m n (digitOf a n)) m⟩ := by
  rw [Nat.pow_succ, ← Nat.div_div_eq_div_mul]
  rfl

theorem foldl_pipeStep_range (a b n : Nat) {m : Nat} (hm : 0 < m) :
    (List.range n).foldl (pipeStep b m) ⟨a, 0⟩ = ⟨a / 10 ^ n, a % 10 ^ n * b % m⟩ := by
  induction n with
  | zero => simp [Nat.mod_one]
  | succ n ih =>
    rw [List.range_succ, List.foldl_append, ih, List.foldl_cons, List.foldl_nil, pipeStep_eq,
      addmod_tableEntry_digitOf a b n hm]

theorem pipeEnd_eq {a : Nat} (b : Nat) {m : Nat} (ha : a < 2 ^ 32) (hm : 0 < m) :
    pipeEnd a b m = ⟨0, modmul a b m⟩ := by
  have hdigits := word_lt_ten_digits ha
  have h := foldl_pipeStep_range a b 10 hm
  rwa [Nat.div_eq_of_lt hdigits, Nat.mod_eq_of_lt hdigits] at h

-- The rows on the fly (R147)

theorem rowBase_eq (b m k : Nat) : rowBase b m k = b * 10 ^ k % m := by
  induction k with
  | zero => rw [rowBase, Nat.pow_zero, Nat.mul_one]
  | succ k ih => rw [rowBase, ih, Nat.mul_mod_mod, Config.modmulRadix, Nat.pow_succ, Nat.mul_comm, Nat.mul_assoc]

/-- A digit times its row base is that digit's table entry (R147). -/
theorem mul_rowBase_mod (b m k d : Nat) : d * rowBase b m k % m = tableEntry b m k d := by
  rw [rowBase_eq, Nat.mul_mod_mod, ← Nat.mul_assoc, tableEntry, Config.modmulRadix]

theorem modmulRows_eq_modmulDigits (a b m : Nat) : modmulRows a b m = modmulDigits a b m := by
  simp only [modmulRows, modmulDigits, mul_rowBase_mod]

-- The statements

/-- Settles O44: the sum of two residues is below `2 * m`, where one subtraction is enough. -/
theorem addmodIsTheResidueOfTheSum : Obligations.AddmodIsTheResidueOfTheSum := by
  intro a b m _ _ ha hb
  have hsum : a + b < 2 * m := by omega
  exact ⟨addmod_eq_mod hsum, addmod_lt hsum⟩

/-- Settles O41, by induction on the digit positions. -/
theorem digitMethodIsExact : Obligations.DigitMethodIsExact := by
  intro a b m ha _ hm _
  exact modmulDigits_eq_modmul b ha (by omega)

/-- Settles O42, by induction on the stages. -/
theorem pipelineEndsWithTheProduct : Obligations.PipelineEndsWithTheProduct := by
  intro a b m ha _ hm _
  rw [pipeEnd_eq b ha (by omega)]
  exact ⟨rfl, rfl⟩

/-- Settles O43: with the row bases the digit method sums the same table entries. -/
theorem rowsOnTheFlyGiveTheProduct : Obligations.RowsOnTheFlyGiveTheProduct := by
  intro a b m ha _ hm _
  exact ⟨rowBase_eq b m, (modmulRows_eq_modmulDigits a b m).trans (modmulDigits_eq_modmul b ha (by omega))⟩

end Sys2Proof.Machine
end

section
/-! PROOFS. The family '42_boot_default.md': the algorithm XS128 and the DEFAULT core (R161 to R167), and XORWOW, the
core of spec/43_scalar_cores.md built like it (R184 to R187). -/

namespace Sys2Proof.Machine

-- XS128 (R161 to R163)

theorem xs128InitInt_eq (s : Word) : xs128InitInt s = ⟨s, 362436069, 521288629, 88675123⟩ := rfl

theorem xs128Fold_eq (st : Xs128) (c : CharCode) : xs128Fold st c = { st with x := st.x ^^^ c.setWidth 32 } := rfl

theorem xs128Step_output (st : Xs128) :
    (xs128Step st).1 =
      st.w ^^^ (st.w >>> 19) ^^^ (st.x ^^^ (st.x <<< 11)) ^^^ ((st.x ^^^ (st.x <<< 11)) >>> 8) := rfl

/-- The registers move down by one and the output is the newest word (R161). -/
theorem xs128Step_next (st : Xs128) : (xs128Step st).2 = ⟨st.y, st.z, st.w, (xs128Step st).1⟩ := rfl

-- XORWOW (R184, R185, R187)

theorem xorwowInitInt_eq (s : Word) :
    xorwowInitInt s = ⟨s, 362436069, 521288629, 88675123, 5783321, 6615241⟩ := rfl

theorem xorwowFold_eq (st : Xorwow) (c : CharCode) : xorwowFold st c = { st with x := st.x ^^^ c.setWidth 32 } := rfl

/-- The output is the new Weyl counter plus the new xorshift word (R185). -/
theorem xorwowStep_output (st : Xorwow) : (xorwowStep st).1 = (xorwowStep st).2.d + (xorwowStep st).2.v := rfl

/-- The xorshift registers move down by one and the counter advances by itself (R185). -/
theorem xorwowStep_next (st : Xorwow) :
    (xorwowStep st).2 =
      ⟨st.y, st.z, st.w, st.v,
        (st.v ^^^ (st.v <<< 4)) ^^^ ((st.x ^^^ (st.x >>> 2)) ^^^ ((st.x ^^^ (st.x >>> 2)) <<< 1)),
        st.d + 362437⟩ := rfl

-- The arms of the contract (R102, R167)

theorem genInitInt_dflt (w : Word) (G : Gens) (boot : Xs128) :
    genInitInt .dflt w G boot = ({ G with dflt := xs128InitInt w }, boot) := rfl

theorem genInitInt_xorwow (w : Word) (G : Gens) (boot : Xs128) :
    genInitInt .xorwow w G boot = ({ G with xorwow := xorwowInitInt w }, boot) := rfl

theorem genStep_dflt (G : Gens) :
    genStep .dflt G = ((xs128Step G.dflt).1, { G with dflt := (xs128Step G.dflt).2 }) := rfl

theorem genStep_xorwow (G : Gens) :
    genStep .xorwow G = ((xorwowStep G.xorwow).1, { G with xorwow := (xorwowStep G.xorwow).2 }) := rfl

-- The statement

/-- Settles O47, from the arms of the two cores and the register equations of their seeding, fold and step. -/
theorem defaultAndXorwowRegisters : Obligations.DefaultAndXorwowRegisters := by
  refine ⟨fun w G boot => ⟨?_, ?_⟩, fun st sx c => ⟨xs128Fold_eq st c, xorwowFold_eq sx c⟩, fun G => ⟨?_, ?_⟩⟩
  · rw [genInitInt_dflt, xs128InitInt_eq]
  · rw [genInitInt_xorwow, xorwowInitInt_eq]
  · rw [genStep_dflt, xs128Step_next, xs128Step_output]
    exact ⟨rfl, rfl⟩
  · rw [genStep_xorwow, xorwowStep_output, xorwowStep_next]
    exact ⟨rfl, rfl⟩

end Sys2Proof.Machine
end

section
/-! PROOFS. The family '43_scalar_cores.md', the residues: what a register modulo M31 holds, PARKMILLER (R176 to R179),
KNUTHRAN2 (R202 to R205), and the recurrences of MRG5 and DX1597 (R235, R240). -/

namespace Sys2Proof.Machine

-- Registers modulo M31 (R140, R149)

/-- A residue, written as 1 under the condition `p`, is held by a 31-bit register as it is (R176, R179, R202, R205). -/
theorem toNat_ite_one_ofNat31 (p : Prop) [Decidable p] {n : Nat} (h : n < Config.m31) :
    (if p then 1 else BitVec.ofNat 31 n : BitVec 31).toNat = if p then 1 else n := by
  split
  · rfl
  · exact ofNat31_toNat n h

/-- The two operands are residues, or a residue and a character (R149, R179). -/
theorem addmod_m31 {x y : Nat} (hx : x < Config.m31) (hy : y < Config.m31) :
    addmod x y Config.m31 = (x + y) % Config.m31 :=
  addmod_eq_mod (Nat.two_mul Config.m31 ▸ Nat.add_lt_add hx hy)

/-- Two products of the modular unit add up to the residue of the whole sum (R140, R149). -/
theorem addmod_modmul (x a y b : Nat) :
    addmod (modmul x a Config.m31) (modmul y b Config.m31) Config.m31 = (a * x + b * y) % Config.m31 := by
  rw [modmul, modmul, addmod_residues _ _ (by decide), Nat.mul_comm x, Nat.mul_comm y]

theorem ofNat32_mod_m31_toNat (n : Nat) : (BitVec.ofNat 32 (n % Config.m31)).toNat = n % Config.m31 :=
  ofNat32_toNat _ (Nat.mod_lt n (by decide))

-- PARKMILLER (R176, R177, R179)

theorem parkMillerInitInt_toNat (s : Word) :
    (parkMillerInitInt s).x.toNat = if s.toNat % Config.m31 = 0 then 1 else s.toNat % Config.m31 :=
  toNat_ite_one_ofNat31 _ (Nat.mod_lt _ (by decide))

theorem parkMillerStep_toNat (st : ParkMiller) : (parkMillerStep st).1.toNat = 16807 * st.x.toNat % Config.m31 := by
  rw [parkMillerStep, modmul, ofNat32_mod_m31_toNat, Nat.mul_comm]

theorem parkMillerFold_toNat {st : ParkMiller} (h : st.Legal) (c : CharCode) :
    (parkMillerFold st c).x.toNat =
      if (st.x.toNat + c.toNat) % Config.m31 = 0 then 1 else (st.x.toNat + c.toNat) % Config.m31 := by
  obtain ⟨_, hle⟩ := h
  rw [parkMillerFold, addmod_m31 (Nat.lt_of_le_of_lt hle (by decide)) (charCode_toNat_lt_m31 c)]
  exact toNat_ite_one_ofNat31 _ (Nat.mod_lt _ (by decide))

-- KNUTHRAN2 (R202, R203, R205)

/-- Both registers of KNUTHRAN2 start like PARKMILLER's (R202). -/
theorem knuthran2InitInt_eq (s : Word) : knuthran2InitInt s = ⟨(parkMillerInitInt s).x, (parkMillerInitInt s).x⟩ := rfl

theorem knuthran2Fold_x0 (st : Knuthran2) (c : CharCode) : (knuthran2Fold st c).x0 = st.x0 := rfl

theorem knuthran2Fold_x1_toNat {st : Knuthran2} (h : st.Legal) (c : CharCode) :
    (knuthran2Fold st c).x1.toNat =
      if (st.x1.toNat + c.toNat) % Config.m31 = 0 ∧ st.x0 = 0 then 1 else (st.x1.toNat + c.toNat) % Config.m31 := by
  obtain ⟨_, h1, _⟩ := h
  rw [knuthran2Fold, addmod_m31 h1 (charCode_toNat_lt_m31 c)]
  exact toNat_ite_one_ofNat31 _ (Nat.mod_lt _ (by decide))

theorem knuthran2Step_x0 (st : Knuthran2) : (knuthran2Step st).2.x0 = st.x1 := rfl

theorem knuthran2Step_toNat (st : Knuthran2) :
    (knuthran2Step st).1.toNat = (271828183 * st.x1.toNat + 1833324378 * st.x0.toNat) % Config.m31 := by
  rw [knuthran2Step, addmod_modmul, ofNat32_mod_m31_toNat]

/-- The multiplier 1833324378 of the block stands for -314159269, which is congruent to it modulo M31 (R203). -/
theorem knuthran2Step_int (st : Knuthran2) :
    ((knuthran2Step st).1.toNat : Int) =
      (271828183 * (st.x1.toNat : Int) - 314159269 * (st.x0.toNat : Int)) % 2147483647 := by
  rw [knuthran2Step_toNat, Config.m31]
  omega

-- MRG5 (R240)

theorem mrg5Step_toNat (b : Buffer 5) :
    (mrg5Step b).1.toNat = (107374182 * (lag b 1).toNat + 104480 * (lag b 5).toNat) % Config.m31 := by
  rw [mrg5Step, addmod_modmul, ofNat32_mod_m31_toNat]

theorem mrg5Step_buffer (b : Buffer 5) : (mrg5Step b).2 = push b (mrg5Step b).1 := rfl

-- DX1597 (R235, R237)

theorem dxB_pos : 0 < Config.dxB := Nat.succ_pos _

theorem dxB_lt_m31 : Config.dxB < Config.m31 := Nat.succ_lt_succ (Nat.mod_lt _ (by decide))

theorem lag_lt_of_residues {K : Nat} {b : Buffer K} (h : b.Residues) (j : Nat) : (lag b j).toNat < Config.m31 := h _

/-- On residues the tree of three modular sums is the residue of the sum of the four lagged words (R235). -/
theorem dx1597Sum_eq {b : Buffer 1597} (h : b.Residues) :
    dx1597Sum b =
      ((lag b 1).toNat + (lag b 533).toNat + (lag b 1065).toNat + (lag b 1597).toNat) % Config.m31 := by
  have hlag := lag_lt_of_residues h
  rw [dx1597Sum, addmod_m31 (hlag _) (hlag _), addmod_m31 (hlag _) (hlag _),
    addmod_residues _ _ (by decide), ← Nat.add_assoc]
  rfl

theorem dx1597Step_toNat {b : Buffer 1597} (h : b.Residues) :
    (dx1597Step b).1.toNat =
      Config.dxB * ((lag b 1).toNat + (lag b 533).toNat + (lag b 1065).toNat + (lag b 1597).toNat) % Config.m31 := by
  rw [dx1597Step, dx1597StepWith, modmul, ofNat32_mod_m31_toNat, dx1597Sum_eq h, Nat.mod_mul_mod, Nat.mul_comm]

theorem dx1597Step_buffer (b : Buffer 1597) : (dx1597Step b).2 = push b (dx1597Step b).1 := rfl

-- The statements

/-- Settles O48: every register of PARKMILLER is a residue, which the seeding, the fold and the step keep legal. -/
theorem parkMillerStaysInRange : Obligations.ParkMillerStaysInRange := by
  refine ⟨fun w G boot => ⟨rfl, rfl⟩, fun s => ⟨parkMillerInitInt_toNat s, parkMillerInitInt_legal s⟩,
    fun st hpos hle => ?_⟩
  have hlegal : st.Legal := ⟨hpos, hle⟩
  obtain ⟨hpos', hle'⟩ := parkMillerStep_legal st hlegal
  exact ⟨parkMillerStep_toNat st, (parkMillerStep_output st).symm, hpos', hle',
    fun c => ⟨parkMillerFold_toNat hlegal c, parkMillerFold_legal st c hlegal⟩⟩

/-- Settles O53: the invariant is `Knuthran2.Legal`, and both registers are seeded like PARKMILLER's. -/
theorem knuthran2IsNeverBothZero : Obligations.Knuthran2IsNeverBothZero := by
  refine ⟨fun w G boot => ⟨rfl, rfl⟩, fun s => ⟨knuthran2InitInt_legal s, ?_, ?_⟩,
    fun st hok => ⟨knuthran2Step_legal st hok, fun c =>
      ⟨knuthran2Fold_legal st c hok, knuthran2Fold_x0 st c, knuthran2Fold_x1_toNat hok c⟩⟩⟩
  · rw [knuthran2InitInt_eq]
  · rw [knuthran2InitInt_eq]
    exact parkMillerInitInt_toNat s

/-- Settles O54, from the residue each of the three steps computes. -/
theorem linearRecurrencesModuloM31 : Obligations.LinearRecurrencesModuloM31 :=
  ⟨fun _ => rfl, fun _ => rfl, fun _ => rfl,
    fun st => ⟨knuthran2Step_int st, knuthran2Step_x0 st, (knuthran2Step_output st).symm⟩,
    fun b => ⟨mrg5Step_toNat b, mrg5Step_buffer b⟩,
    dxB_pos, dxB_lt_m31, fun b h => ⟨dx1597Step_toNat h, dx1597Step_buffer b⟩⟩

end Sys2Proof.Machine
end

section
/-! PROOFS. The family '43_scalar_cores.md', the words: XORSHIFT32 (R180 to R183), KISS (R188 to R191), TAUS113 (R192 to
R195) and COVEYOU (R198 to R201). -/

namespace Sys2Proof.Machine

-- XORSHIFT32 (R180, R181, R183)

theorem xorshift32InitInt_x (s : Word) : (xorshift32InitInt s).x = if s = 0 then 1 else s := rfl

theorem xorshift32Fold_x (st : Xorshift32) (c : CharCode) :
    (xorshift32Fold st c).x = if st.x ^^^ c.setWidth 32 = 0 then 1 else st.x ^^^ c.setWidth 32 := rfl

theorem xorshift32Step_output (st : Xorshift32) : (xorshift32Step st).1 = xorshiftTriple st.x := rfl

theorem xorshift32Step_x (st : Xorshift32) : (xorshift32Step st).2.x = xorshiftTriple st.x := rfl

-- KISS (R188, R189, R191)

theorem kissInitInt_eq (s : Word) : kissInitInt s = ⟨s, 362436069, 21288629, 14921776, false⟩ := rfl

theorem kissFold_eq (st : Kiss) (c : CharCode) :
    kissFold st c = { st with y := if st.y ^^^ c.setWidth 32 = 0 then 362436069 else st.y ^^^ c.setWidth 32 } := rfl

theorem kissStep_next (st : Kiss) :
    (kissStep st).2 = ⟨st.x + 545925293, xorshiftTriple st.y, st.w, BitVec.ofNat 31 (kissSum st.z st.w st.c),
      kissCarry (kissSum st.z st.w st.c)⟩ := rfl

/-- The output is the sum of the three new registers (R189). -/
theorem kissStep_output (st : Kiss) :
    (kissStep st).1 = (kissStep st).2.x + (kissStep st).2.y + (kissStep st).2.w.setWidth 32 := rfl

/-- Two 31-bit words and a carry need 32 bits at most (R190). -/
theorem kissSum_lt (z w : BitVec 31) (c : Bool) : kissSum z w c < 2 ^ 32 := by
  have hz := z.isLt
  have hw := w.isLt
  have hc := c.toNat_le
  rw [kissSum]
  omega

theorem kissCarry_toNat {t : Nat} (h : t < 2 ^ 32) : (kissCarry t).toNat = t / 2 ^ 31 := by
  rw [kissCarry, Nat.toNat_testBit, Nat.mod_eq_of_lt (by omega)]

/-- The 31-bit word and the carry are the two parts of `z + w + c` (R189, R190). -/
theorem kissSum_split (z w : BitVec 31) (c : Bool) :
    (BitVec.ofNat 31 (kissSum z w c)).toNat + 2 ^ 31 * (kissCarry (kissSum z w c)).toNat = kissSum z w c := by
  rw [kissCarry_toNat (kissSum_lt z w c), BitVec.toNat_ofNat, Nat.mod_add_div]

-- TAUS113 (R192 to R194)

theorem tausLcg_eq (n : Word) : tausLcg n = BitVec.ofNat 32 (69069 * n.toNat % 2 ^ 32) := by
  apply BitVec.eq_of_toNat_eq
  rw [tausLcg, BitVec.toNat_mul, BitVec.toNat_ofNat, Nat.mod_mod]
  rfl

/-- A component is not below its floor: raising one that is below it does not wrap (R193, R195). -/
theorem le_tausFloor_toNat (b z : Word) (hb : b.toNat ≤ 2 ^ 31) : b.toNat ≤ (tausFloor b z).toNat := by
  unfold tausFloor
  split
  · next hlt =>
    rw [BitVec.toNat_add, Nat.mod_eq_of_lt (by omega)]
    exact Nat.le_add_left ..
  · next hle => exact Nat.not_lt.mp hle

/-- One step, component by component (R192). -/
theorem taus113Step_eq (st : Taus113) :
    let z1 := ((st.z1 &&& 0xFFFFFFFE) <<< 18) ^^^ (((st.z1 <<< 6) ^^^ st.z1) >>> 13)
    let z2 := ((st.z2 &&& 0xFFFFFFF8) <<< 2) ^^^ (((st.z2 <<< 2) ^^^ st.z2) >>> 27)
    let z3 := ((st.z3 &&& 0xFFFFFFF0) <<< 7) ^^^ (((st.z3 <<< 13) ^^^ st.z3) >>> 21)
    let z4 := ((st.z4 &&& 0xFFFFFF80) <<< 13) ^^^ (((st.z4 <<< 3) ^^^ st.z4) >>> 12)
    taus113Step st = (z1 ^^^ z2 ^^^ z3 ^^^ z4, ⟨z1, z2, z3, z4⟩) := rfl

/-- A character goes into the first component, which is raised where that leaves it below its floor (R194). -/
theorem taus113Fold_eq (st : Taus113) (c : CharCode) :
    let z := st.z1 ^^^ c.setWidth 32
    taus113Fold st c = { st with z1 := if z.toNat < 2 then z + 2 else z } := rfl

theorem taus113Warm_eq_iterate (n : Nat) (st : Taus113) :
    taus113Warm n st = (fun st => (taus113Step st).2)^[n] st := by
  induction n generalizing st with
  | zero => rfl
  | succ n ih => rw [taus113Warm, ih, Function.iterate_succ_apply]

theorem taus113Chain_z1 (s : Word) : (taus113Chain s).z1 = tausFloor 2 (tausLcg (if s = 0 then 1 else s)) := by
  simp only [taus113Chain]

theorem taus113Chain_z2 (s : Word) : (taus113Chain s).z2 = tausFloor 8 (tausLcg (taus113Chain s).z1) := by
  simp only [taus113Chain]

theorem taus113Chain_z3 (s : Word) : (taus113Chain s).z3 = tausFloor 16 (tausLcg (taus113Chain s).z2) := by
  simp only [taus113Chain]

theorem taus113Chain_z4 (s : Word) : (taus113Chain s).z4 = tausFloor 128 (tausLcg (taus113Chain s).z3) := by
  simp only [taus113Chain]

/-- The seed 0 counts as 1 (R193). -/
theorem taus113Chain_zero : taus113Chain 0 = taus113Chain 1 := rfl

/-- The four components are above their floors before the warm-up (R195). -/
theorem taus113Chain_floors (s : Word) :
    2 ≤ (taus113Chain s).z1.toNat ∧ 8 ≤ (taus113Chain s).z2.toNat ∧ 16 ≤ (taus113Chain s).z3.toNat ∧
      128 ≤ (taus113Chain s).z4.toNat := by
  rw [taus113Chain_z1, taus113Chain_z2, taus113Chain_z3, taus113Chain_z4]
  exact ⟨le_tausFloor_toNat 2 _ (by decide), le_tausFloor_toNat 8 _ (by decide), le_tausFloor_toNat 16 _ (by decide),
    le_tausFloor_toNat 128 _ (by decide)⟩

-- COVEYOU (R198, R199, R201)

/-- Clearing the two low bits and setting bit 1 leaves the bits from 2 up (R198). -/
theorem coveyouInitInt_shiftRight (s : Word) : (coveyouInitInt s).x >>> 2 = s >>> 2 := by
  apply BitVec.eq_of_toNat_eq
  have hs : s.toNat >>> 2 < 2 ^ 30 := by rw [Nat.shiftRight_eq_div_pow]; omega
  calc ((s.toNat &&& 0xFFFFFFFC) ||| 2) >>> 2
      = (s.toNat >>> 2 &&& (2 ^ 30 - 1)) ||| 0 := by rw [Nat.shiftRight_or_distrib, Nat.shiftRight_and_distrib]; rfl
    _ = s.toNat >>> 2 := by rw [Nat.or_zero, Nat.and_two_pow_sub_one_of_lt_two_pow hs]

theorem coveyouInitInt_toNat (s : Word) : (coveyouInitInt s).x.toNat = s.toNat / 4 * 4 + 2 := by
  have hlow : (coveyouInitInt s).x.toNat % 4 = 2 := coveyouInitInt_legal s
  have hhigh := congrArg BitVec.toNat (coveyouInitInt_shiftRight s)
  simp only [BitVec.toNat_ushiftRight, Nat.shiftRight_eq_div_pow] at hhigh
  omega

theorem coveyouFold_x (st : Coveyou) (c : CharCode) :
    (coveyouFold st c).x = st.x ^^^ (c.setWidth 32 <<< 2) := rfl

theorem coveyouStep_output (st : Coveyou) : (coveyouStep st).1 = (coveyouStep st).2.x := rfl

/-- The product is taken modulo 2^32, so `x + 1` may be read as an integer (R199). -/
theorem coveyouStep_toNat (st : Coveyou) :
    (coveyouStep st).2.x.toNat = st.x.toNat * (st.x.toNat + 1) % 2 ^ 32 := by
  calc st.x.toNat * (st.x + 1).toNat % 2 ^ 32 % 2 ^ 32
      = st.x.toNat * ((st.x.toNat + 1) % 2 ^ 32) % 2 ^ 32 := by rw [Nat.mod_mod, BitVec.toNat_add]; rfl
    _ = st.x.toNat * (st.x.toNat + 1) % 2 ^ 32 := Nat.mul_mod_mod ..

-- The statements

/-- Settles O49: the shift triple is injective, so it maps only 0 to 0. -/
theorem xorshift32IsNeverZero : Obligations.Xorshift32IsNeverZero := by
  refine ⟨fun w G boot => ⟨rfl, rfl⟩, fun s => ⟨xorshift32InitInt_x s, xorshift32InitInt_legal s⟩,
    fun st c => ⟨xorshift32Fold_x st c, xorshift32Fold_legal st c⟩, fun st => xorshift32Step_x st,
    fun st hx => ⟨xorshift32Step_legal st hx, ?_⟩, xorshiftTriple_injective⟩
  rw [xorshift32Step_output, xorshift32Step_x]

/-- Settles O50: `z + w + c` has 32 bits, the 31 of the new word and the new carry. -/
theorem kissKeepsItsCarryExact : Obligations.KissKeepsItsCarryExact := by
  refine ⟨fun w G boot => ⟨rfl, rfl⟩, fun s => ⟨kissInitInt_eq s, kissInitInt_legal s⟩,
    fun st c => ⟨kissFold_legal st c, kissFold_eq st c⟩,
    fun st => ⟨?_, kissStep_legal st, ?_, ?_, ?_, kissStep_output st⟩⟩
  · rw [kissStep_next, xorshift32Step_output]
  · rw [kissStep_next]
  · rw [kissStep_next]
    exact kissSum_split st.z st.w st.c
  · rw [kissStep_next]

/-- Settles O52: the invariant is `Coveyou.Legal`. -/
theorem coveyouStaysTwoModFour : Obligations.CoveyouStaysTwoModFour :=
  ⟨fun _ _ _ => ⟨rfl, rfl⟩, fun s => ⟨coveyouInitInt_toNat s, coveyouInitInt_legal s⟩,
    fun st h => ⟨coveyouStep_legal st h, coveyouStep_output st, coveyouStep_toNat st,
      fun c => ⟨coveyouFold_x st c, coveyouFold_legal st c h⟩⟩⟩

/-- Settles O51: the chain goes through one floor for each component. -/
theorem taus113ComponentsClearTheirFloors : Obligations.Taus113ComponentsClearTheirFloors := by
  refine ⟨fun w G boot => ⟨rfl, rfl⟩, fun s => ?_, fun s => ?_, taus113Chain_zero, taus113Step_eq, taus113Fold_eq⟩
  · simp only [← tausLcg_eq]
    rfl
  · obtain ⟨h1, h2, h3, h4⟩ := taus113Chain_floors s
    exact ⟨h1, h2, h3, h4, taus113Warm_eq_iterate 10 (taus113Chain s)⟩

end Sys2Proof.Machine
end

section
/-! PROOFS. The family '44_lagged_cores.md': the fill from BOOT (R73, R107, R221) and the steps of R250 (R222), GFSR4
(R225) and SWB2712 (R230, R231). -/

namespace Sys2Proof.Machine

-- Reads and writes of a circular buffer by index (R25, R61)

/-- Lag `j` counted forward from the read pointer, as the rules give the indices (R61, R222, R225, R230). -/
theorem lag_eq_get_add {K : Nat} (b : Buffer K) (j : Nat) (hj : j ≤ K) :
    lag b j = b.buf[(b.p.val + (K - j)) % K]'(Nat.mod_lt _ b.p.pos) := by
  apply lag_eq_get
  rw [Nat.add_sub_assoc hj]

/-- What `push` does to each index and to the pointer, the word it writes being the step's output (R25, R61). -/
theorem push_spec {K : Nat} (b : Buffer K) (v : Word) :
    (push b v).buf[b.p] = v ∧ (push b v).p.val = (b.p.val + 1) % K ∧
      ∀ i : Fin K, i ≠ b.p → (push b v).buf[i] = b.buf[i] :=
  ⟨push_get_self b v, push_p b v, push_get_other b v⟩

-- The fill (R221, R73)

/-- BOOT after `k` draws has made `k` steps (R166, R221). -/
theorem bootDraws_boot (k : Nat) (boot : Xs128) :
    (bootDraws k boot).2 = (fun st => (xs128Step st).2)^[k] boot := by
  induction k generalizing boot with
  | zero => rfl
  | succ k ih => rw [Function.iterate_succ_apply]; exact ih _

theorem fillBuffer_p {K : Nat} (hK : 0 < K) (red : Word → Word) (boot : Xs128) :
    (fillBuffer hK red boot).1.p.val = 0 := rfl

theorem fillBuffer_boot {K : Nat} (hK : 0 < K) (red : Word → Word) (boot : Xs128) :
    (fillBuffer hK red boot).2 = (fun st => (xs128Step st).2)^[K] boot := bootDraws_boot K boot

/-- The words stand in the order in which they were drawn (R221). -/
theorem fillBuffer_get {K : Nat} (hK : 0 < K) (red : Word → Word) (boot : Xs128) (i : Nat) (hi : i < K) :
    (fillBuffer hK red boot).1.buf[i] = red (xs128Step ((fun st => (xs128Step st).2)^[i] boot)).1 := by
  rw [← bootDraws_get K boot i hi]
  simp [fillBuffer]

/-- The pointer is 0 after the fill, so index `i` is `K - i` behind it: the first draw is the oldest word (R61, R221). -/
theorem fillBuffer_lag {K : Nat} (hK : 0 < K) (red : Word → Word) (boot : Xs128) (i : Nat) (hi : i < K) :
    lag (fillBuffer hK red boot).1 (K - i) = (fillBuffer hK red boot).1.buf[i] := by
  apply lag_eq_get
  have hback : 0 + K - (K - i) = i := by omega
  rw [fillBuffer_p, hback, Nat.mod_eq_of_lt hi]

-- The steps (R222, R225, R230)

theorem r250Step_output (b : Buffer 250) :
    (r250Step b).1 = b.buf[(b.p.val + 147) % 250]'(Nat.mod_lt _ (by decide)) ^^^ b.buf[b.p] := by
  rw [r250Step, lag_eq_get_add b 103 (by decide), lag_oldest]

theorem r250Step_buffer (b : Buffer 250) : (r250Step b).2 = push b (r250Step b).1 := rfl

theorem gfsr4Step_output (b : Buffer 9689) :
    (gfsr4Step b).1 =
      b.buf[(b.p.val + 9218) % 9689]'(Nat.mod_lt _ (by decide)) ^^^
        b.buf[(b.p.val + 8103) % 9689]'(Nat.mod_lt _ (by decide)) ^^^
        b.buf[(b.p.val + 2701) % 9689]'(Nat.mod_lt _ (by decide)) ^^^ b.buf[b.p] := by
  rw [gfsr4Step, lag_eq_get_add b 471 (by decide), lag_eq_get_add b 1586 (by decide),
    lag_eq_get_add b 6988 (by decide), lag_oldest]

theorem gfsr4Step_buffer (b : Buffer 9689) : (gfsr4Step b).2 = push b (gfsr4Step b).1 := rfl

/-- `a - b - c` is split exactly: with a borrow, 2^32 has been added to the difference (R230, R231). -/
theorem swbDifference_borrow (a b : Word) (c : Bool) :
    (swbDifference a b c).toNat + b.toNat + c.toNat = a.toNat + 2 ^ 32 * (swbBorrow a b c).toNat := by
  have ha := a.isLt
  have hb := b.isLt
  have hc : c.toNat ≤ 1 := Bool.toNat_le c
  unfold swbDifference swbBorrow
  split
  · next hle =>
    rw [decide_eq_false (by omega), BitVec.toNat_ofNat, Nat.mod_eq_of_lt (by omega), Bool.toNat_false]
    omega
  · next hlt =>
    rw [decide_eq_true (by omega), BitVec.toNat_ofNat, Nat.mod_eq_of_lt (by omega), Bool.toNat_true]
    omega

theorem swb2712Step_output (st : Swb2712) :
    (swb2712Step st).1 =
      swbDifference (st.b.buf[(st.b.p.val + 15) % 27]'(Nat.mod_lt _ (by decide))) st.b.buf[st.b.p] st.c := by
  rw [swb2712Step, lag_eq_get_add st.b 12 (by decide), lag_oldest]

theorem swb2712Step_borrow (st : Swb2712) :
    (swb2712Step st).2.c =
      swbBorrow (st.b.buf[(st.b.p.val + 15) % 27]'(Nat.mod_lt _ (by decide))) st.b.buf[st.b.p] st.c := by
  rw [swb2712Step, lag_eq_get_add st.b 12 (by decide), lag_oldest]

theorem swb2712Step_buffer (st : Swb2712) : (swb2712Step st).2.b = push st.b (swb2712Step st).1 := rfl

-- The statements

/-- Settles O46: the fill index by index, and each seeding of the six cores as one fill of its buffer. -/
theorem fillWritesTheDrawsInOrder : Obligations.FillWritesTheDrawsInOrder := by
  refine ⟨fun K hK red boot => ⟨fillBuffer_p hK red boot, fillBuffer_boot hK red boot,
    fun i hi => ⟨fillBuffer_get hK red boot i hi, fillBuffer_lag hK red boot i hi⟩⟩,
    xs128InitInt_eq, bootSeedStr_nil, fun cs c => scalarInitStr_append_singleton .., fun w cs G boot => ?_⟩
  -- Core by core, an arm of `init_int` and one of `init_str`: `drawn` is `redNone` and `residue` is `redM31` (R221).
  exact ⟨⟨rfl, rfl⟩, ⟨rfl, rfl⟩, ⟨rfl, rfl⟩, ⟨rfl, rfl⟩, ⟨rfl, rfl⟩, ⟨rfl, rfl⟩⟩

/-- Settles O55: the output by the indices of its lags, the rest by what `push` does. -/
theorem xorLagCoresStep : Obligations.XorLagCoresStep := by
  refine ⟨fun _ => rfl, fun _ => rfl, fun b => ?_, fun b => ?_⟩
  · rw [r250Step_buffer, r250Step_output]
    exact ⟨rfl, push_spec b _⟩
  · rw [gfsr4Step_buffer, gfsr4Step_output]
    exact ⟨rfl, push_spec b _⟩

/-- Settles O56: the split of the difference, and what `push` does. -/
theorem swb2712BorrowIsExact : Obligations.Swb2712BorrowIsExact := by
  refine ⟨fun _ => rfl, fun st => ⟨?_, ?_⟩⟩
  · rw [swb2712Step_output, swb2712Step_borrow]
    exact swbDifference_borrow _ _ st.c
  · rw [swb2712Step_buffer]
    exact push_spec st.b _

end Sys2Proof.Machine
end

section
/-! PROOFS. The family '45_tgfsr_cores.md': the steps of TT800 (R261) and MT19937 (R268), and MT19937's seedings (R266,
R267). -/

namespace Sys2Proof.Machine

-- The steps (R261, R268)

/-- One untempered word, read at the indices of its lags, is pushed and tempered (R261). -/
theorem tt800Step_eq (b : Buffer 25) :
    let o := b.buf[b.p]
    let v := b.buf[(b.p.val + 7) % 25]'(Nat.mod_lt _ (by decide)) ^^^ (o >>> 1) ^^^
      (if o.toNat % 2 = 1 then 0x8EBFD028 else 0)
    tt800Step b = (tt800Temper v, push b v) := by
  simp only [tt800Step, lag_eq_get_add b 18 (by decide), lag_oldest, twist_eq, BitVec.xor_assoc]

/-- The word MT19937 twists takes its low 31 bits, so its parity, from the newer of the two words (R268). -/
theorem joinedWord_mod_two (u n : Word) :
    ((u &&& 0x80000000) ||| (n &&& 0x7FFFFFFF)).toNat % 2 = n.toNat % 2 := by
  calc ((u.toNat &&& 0x80000000) ||| (n.toNat &&& 0x7FFFFFFF)) % 2 ^ 1
      = (u.toNat % 2 &&& 0) ||| (n.toNat % 2 &&& 1) := by
        rw [Nat.or_mod_two_pow, Nat.and_mod_two_pow, Nat.and_mod_two_pow]
    _ = n.toNat % 2 := by rw [Nat.and_zero, Nat.zero_or, Nat.and_one_is_mod, Nat.mod_mod]

/-- One untempered word, read at the indices of its lags, is pushed and tempered (R268). -/
theorem mt19937Step_eq (b : Buffer 624) :
    let n := b.buf[(b.p.val + 1) % 624]'(Nat.mod_lt _ (by decide))
    let y := (b.buf[b.p] &&& 0x80000000) ||| (n &&& 0x7FFFFFFF)
    let v := b.buf[(b.p.val + 397) % 624]'(Nat.mod_lt _ (by decide)) ^^^ (y >>> 1) ^^^
      (if n.toNat % 2 = 1 then 0x9908B0DF else 0)
    mt19937Step b = (mt19937Temper v, push b v) := by
  simp only [mt19937Step, lag_eq_get_add b 623 (by decide), lag_eq_get_add b 227 (by decide), lag_oldest, twist_eq,
    joinedWord_mod_two, BitVec.xor_assoc]

-- The seedings of MT19937 (R266, R267)

theorem mt19937InitInt_p (s : Word) : (mt19937InitInt s).p.val = 0 := rfl

theorem mt19937InitInt_first (s : Word) : (mt19937InitInt s).buf[0] = s := rfl

/-- Adding the index modulo 2^32 to the residue is one reduction of the exact sum (R266). -/
theorem mt19937SeedWord_toNat (i : Nat) (p : Word) :
    (mt19937SeedWord i p).toNat = ((p ^^^ (p >>> 30)).toNat * 1812433253 + i) % 2 ^ 32 := by
  rw [mt19937SeedWord, modmul, ← BitVec.ofNat_add, BitVec.toNat_ofNat]
  exact Nat.mod_add_mod ..

/-- Each word of the buffer is made from its index and the word before it (R266). -/
theorem mt19937InitInt_succ (s : Word) (i : Nat) (h : i + 1 < 624) :
    (mt19937InitInt s).buf[i + 1] = mt19937SeedWord (i + 1) (mt19937InitInt s).buf[i] := by
  rw [mt19937InitInt_get, mt19937InitInt_get, wordsFrom_get _ _ _ _ i (by omega), Nat.add_comm 1 i]

-- The statements

/-- Settles O57: the untempered word is the one pushed, and the rest is what `push` does. -/
theorem twistedCoresStep : Obligations.TwistedCoresStep := by
  refine ⟨fun _ => rfl, fun _ => rfl, fun b => ?_, fun b => ?_⟩
  · rw [tt800Step_eq]
    obtain ⟨hnew, hp, hold⟩ := push_spec b _
    exact ⟨hnew, rfl, hp, hold⟩
  · rw [mt19937Step_eq]
    obtain ⟨hnew, hp, hold⟩ := push_spec b _
    exact ⟨hnew, rfl, hp, hold⟩

/-- Settles O58: the recurrence of the word list, read at each index of the buffer. -/
theorem mt19937SeedingRecurrence : Obligations.Mt19937SeedingRecurrence := by
  refine ⟨fun _ _ _ _ => ⟨rfl, rfl⟩, fun s => ⟨mt19937InitInt_p s, mt19937InitInt_first s, fun i h => ?_⟩⟩
  rw [mt19937InitInt_succ s i h, mt19937SeedWord_toNat]

end Sys2Proof.Machine
end

section
/-! PROOFS. The family '46_philox.md': the block PHILOX hands out word by word (R280, R284, R285), and its seedings,
multiplier, round and known answers (R281 to R283, R286, R287). -/

namespace Sys2Proof.Machine

-- The block in order (R280, R284)

/-- A step added at the end of a run, where the definition adds it at the front. -/
theorem gensAfter_succ (g : CoreId) (k : Nat) (G : Gens) :
    gensAfter g (k + 1) G = (genStep g (gensAfter g k G)).2 := by
  induction k generalizing G with
  | zero => rfl
  | succ k ih => exact ih (genStep g G).2

theorem philoxStep_of_full {st : Philox} (h : st.idx = 4) : philoxStep st = philoxTake (philoxRefill st) 0 := by
  rw [philoxStep, dif_neg (by simp [h])]

/-- After `OUT[i]` the next step hands out `OUT[i + 1]` of the same block (R284). -/
theorem philoxStep_philoxTake (st : Philox) (i : Nat) (h : i + 1 < 4) :
    philoxStep (philoxTake st ⟨i, by omega⟩).2 = philoxTake st ⟨i + 1, h⟩ :=
  dif_pos h

/-- From `IDX = 4`, step `k` of the next four takes word `k` of the one block made in the first of them (R284). -/
theorem philoxStep_gensAfter {G : Gens} (hfull : G.philox.idx = 4) (k : Nat) (hk : k < 4) :
    philoxStep (gensAfter .philox k G).philox = philoxTake (philoxRefill G.philox) ⟨k, hk⟩ := by
  induction k with
  | zero => exact philoxStep_of_full hfull
  | succ k ih =>
    have hprev : (gensAfter .philox (k + 1) G).philox = (philoxTake (philoxRefill G.philox) ⟨k, by omega⟩).2 := by
      rw [gensAfter_succ, ← ih (by omega)]; rfl
    rw [hprev, philoxStep_philoxTake _ k hk]

theorem rawAt_philox {G : Gens} (hfull : G.philox.idx = 4) (k : Nat) (hk : k < 4) :
    rawAt .philox k G = (philoxBlock G.philox.ctr G.philox.key)[k] :=
  congrArg Prod.fst (philoxStep_gensAfter hfull k hk)

theorem gensAfter_philox {G : Gens} (hfull : G.philox.idx = 4) (k : Nat) (hk : k < 4) :
    (gensAfter .philox (k + 1) G).philox = { philoxRefill G.philox with idx := ⟨k + 1, by omega⟩ } := by
  rw [gensAfter_succ]
  exact congrArg Prod.snd (philoxStep_gensAfter hfull k hk)

/-- The counter goes up by one modulo 2^128 (R284). -/
theorem ctrNumber_ctrNext (x : Vector Word 4) : ctrNumber (ctrNext x) = (ctrNumber x + 1) % 2 ^ 128 :=
  ctrNumber_ctrOfNumber _ (Nat.mod_lt _ (by decide))

-- The multiplier (R281)

/-- The high word and the low word make up the exact product (R281). -/
theorem mulhilo_exact (a b : Word) :
    (mulhilo a b).1.toNat * 2 ^ 32 + (mulhilo a b).2.toNat = a.toNat * b.toNat := by
  have hproduct : a.toNat * b.toNat < 2 ^ 32 * 2 ^ 32 := Nat.mul_lt_mul'' a.isLt b.isLt
  have hhigh : a.toNat * b.toNat / 2 ^ 32 < 2 ^ 32 := Nat.div_lt_of_lt_mul hproduct
  simp only [mulhilo, BitVec.toNat_ofNat, Nat.mod_mod, Nat.mod_eq_of_lt hhigh]
  exact Nat.div_add_mod' ..

-- The known answers of Philox-4x32-10 (R283)

theorem philoxBlock_zeros :
    philoxBlock #v[0, 0, 0, 0] #v[0, 0] = #v[0x6627E8D5, 0xE169C58D, 0xBC57AC4C, 0x9B00DBD8] := by decide

theorem philoxBlock_ones :
    philoxBlock #v[0xFFFFFFFF, 0xFFFFFFFF, 0xFFFFFFFF, 0xFFFFFFFF] #v[0xFFFFFFFF, 0xFFFFFFFF] =
      #v[0x408F276D, 0x41C83B0E, 0xA20BC7C6, 0x6D5451FD] := by decide

theorem philoxBlock_pi :
    philoxBlock #v[0x243F6A88, 0x85A308D3, 0x13198A2E, 0x03707344] #v[0xA4093822, 0x299F31D0] =
      #v[0xD16CFE09, 0x94FDCCEB, 0x5001E420, 0x24126EA1] := by decide

-- The statements

/-- Settles O59: the four steps take the words of one refilled block, and the refill is what moves the counter. -/
theorem philoxGivesItsBlockInOrder : Obligations.PhiloxGivesItsBlockInOrder := by
  refine ⟨fun _ _ _ _ => rfl, fun G hfull k hk => ⟨rawAt_philox hfull k hk, ?_⟩⟩
  rw [gensAfter_philox hfull k hk]
  exact ⟨rfl, rfl, ctrNumber_ctrNext G.philox.ctr⟩

/-- Settles O60: the seedings and the round are their definitions, the product is exact, the blocks are evaluated. -/
theorem philoxSeedingAndKnownAnswers : Obligations.PhiloxSeedingAndKnownAnswers :=
  ⟨fun _ _ _ _ => ⟨rfl, rfl⟩, mulhilo_exact, fun _ _ => rfl, fun _ => rfl, fun _ => rfl,
    philoxBlock_zeros, philoxBlock_ones, philoxBlock_pi, by decide⟩

end Sys2Proof.Machine
end

section
/-! PROOFS. The family '60_exceptions.md': the commands DEFAULT does not support (R302, R304) and how often each command
samples the entropy port (R322), which for RANDOM and RANDOM_INT is counted round by round of the loop (R119). -/

namespace Sys2Proof.Machine

-- UnsupportedOperation on DEFAULT (R168, R302)

theorem not_givesIntegers_dflt {g : CoreId} (h : g = .dflt) : ¬ givesIntegers g = true :=
  fun hi => (givesIntegers_iff g).mp hi h

/-- Settles O17: `DATA` of the error beat is the header word as a number. -/
theorem defaultGivesNoIntegers : Obligations.DefaultGivesNoIntegers := by
  intro s hcur
  have unsupported := not_givesIntegers_dflt hcur
  refine ⟨exec_nextInt_unsupported s unsupported, fun imm => ?_⟩
  refine ⟨(headerWord (.randomInt imm)).setWidth 64, ?_, exec_randomInt_unsupported s imm unsupported⟩
  rw [BitVec.toNat_setWidth, headerWord, cmdWord_toNat]
  have hop : (0x23 : BitVec 8).toNat = 0x23 := rfl
  omega

-- Samples of the entropy port (R104, R322)

/-- What leaves the entropy port alone takes no sample. -/
theorem sampled_zero {s t : State} (hent : t.ent = s.ent) (hcount : t.entCount = s.entCount) : Sampled 0 s t :=
  ⟨hcount, hent⟩

theorem Sampled.trans {m n : Nat} {s t u : State} (a : Sampled m s t) (b : Sampled n t u) : Sampled (m + n) s u where
  count := by rw [b.count, a.count, Nat.add_assoc]
  rest := by rw [b.rest, a.rest, List.drop_drop]

theorem Sampled.send {n : Nat} {s t : State} (h : Sampled n s t) (bs : List BeatWord) : Sampled n s (t.send bs) :=
  ⟨h.count, h.rest⟩

theorem initTime_sampled (s : State) (g : CoreId) : Sampled 1 s (s.initTime g) := ⟨rfl, List.drop_one.symm⟩

-- The samples of the generate loop (R109, R119)

/-- One round of the loop: `book(g)`, then `step(g)`. -/
def State.round (s : State) (g : CoreId) : State := (s.book g).stepCore g

theorem generate_succ_state (g : CoreId) (k : Nat) (s : State) :
    (State.generate g (k + 1) s).2 = (State.generate g k (s.round g)).2 := rfl

theorem round_noseedOf (s : State) (g : CoreId) : (s.round g).noseedOf g = s.noseedOf g :=
  (book_frame s g).noseedOf g

/-- An ambient round below the limit counts one value and takes no sample. -/
theorem round_below_limit {s : State} {g : CoreId} (hn : s.noseedOf g = true)
    (hlt : (s.recalcOf g).toNat < Config.recalcFreq) :
    ((s.round g).recalcOf g).toNat = (s.recalcOf g).toNat + 1 ∧ Sampled 0 s (s.round g) := by
  have hbook := book_counts s g hn fun e => Nat.ne_of_lt hlt ((eq_recalcLimit_iff _).mp e)
  rw [State.round, hbook]
  refine ⟨?_, sampled_zero rfl rfl⟩
  have hfreq : Config.recalcFreq = 65536 := rfl
  simp only [stepCore_recalcOf, State.countValue, setRecalc_recalcOf, if_pos]
  bv_omega

/-- An ambient round at the limit takes one sample and counts from 0 again. -/
theorem round_at_limit {s : State} {g : CoreId} (hn : s.noseedOf g = true)
    (heq : (s.recalcOf g).toNat = Config.recalcFreq) :
    ((s.round g).recalcOf g).toNat = 1 ∧ Sampled 1 s (s.round g) := by
  rw [State.round, book_reseeds s g hn ((eq_recalcLimit_iff _).mpr heq)]
  exact ⟨by simp [State.countValue], (initTime_sampled s g).count, (initTime_sampled s g).rest⟩

/-- In ambient mode the loop takes a sample at each positive multiple of `RECALC_FREQ` that the count meets (R119). -/
theorem generate_sampled_ambient {g : CoreId} (k : Nat) {s : State} (hn : s.noseedOf g = true)
    (hr : (s.recalcOf g).toNat ≤ Config.recalcFreq) :
    Sampled (((s.recalcOf g).toNat + k - 1) / Config.recalcFreq) s (State.generate g k s).2 := by
  have hpos : 0 < Config.recalcFreq := by decide
  induction k generalizing s with
  | zero =>
    rw [Nat.div_eq_of_lt (by omega)]
    exact sampled_zero rfl rfl
  | succ k ih =>
    have hn' := (round_noseedOf s g).trans hn
    rw [generate_succ_state]
    rcases Nat.lt_or_eq_of_le hr with hlt | heq
    · obtain ⟨hcount, hround⟩ := round_below_limit hn hlt
      have hrest := hround.trans (ih hn' (by omega))
      rwa [hcount, Nat.zero_add, Nat.add_right_comm] at hrest
    · rw [heq]
      obtain ⟨hcount, hround⟩ := round_at_limit hn heq
      have hrest := hround.trans (ih hn' (by omega))
      have hmultiple : (Config.recalcFreq + (k + 1) - 1) / Config.recalcFreq = 1 + k / Config.recalcFreq := by
        rw [← Nat.add_assoc, Nat.add_sub_cancel, Nat.add_div_left _ hpos, Nat.add_comm]
      rwa [hcount, Nat.add_sub_cancel_left, ← hmultiple] at hrest

theorem generate_sampled (c : Nat) {s : State} (hr : (s.recalcOf s.cur).toNat ≤ Config.recalcFreq) :
    Sampled (ambientSamples s c) s (State.generate s.cur c s).2 := by
  unfold ambientSamples
  split
  · next hn => exact generate_sampled_ambient c hn hr
  · next hn =>
    rw [generate_deterministic _ _ _ (Bool.eq_false_of_not_eq_true hn)]
    exact sampled_zero rfl rfl

-- The samples of each command (R112 to R122, R322)

theorem emitMany_sampled (k : Kind) (n : Int) {s : State} (hr : (s.recalcOf s.cur).toNat ≤ Config.recalcFreq) :
    ∃ t, emitMany k n s = .next t ∧ Sampled (ambientSamples s (valueCount n)) s t :=
  ⟨_, emitMany_eq s k n, (generate_sampled _ hr).send _⟩

theorem samplesTaken_select {gid : BitVec 8} {g : CoreId} (e : coreOfGid gid = some g) (s : State) :
    samplesTaken (.select gid) s = if g ≠ s.cur ∧ s.lsKind = .none then 1 else 0 := by
  simp only [samplesTaken, e]

theorem samplesTaken_select_unknown {gid : BitVec 8} (e : coreOfGid gid = none) (s : State) :
    samplesTaken (.select gid) s = 0 := by
  simp only [samplesTaken, e]

/-- SELECT samples the port where it seeds another core and there is no last seed (R121). -/
theorem exec_select_sampled (gid : BitVec 8) (s : State) :
    ∃ t, exec (.select gid) s = .next t ∧ Sampled (samplesTaken (.select gid) s) s t := by
  cases e : coreOfGid gid with
  | none =>
    rw [samplesTaken_select_unknown e]
    exact ⟨_, exec_select_unknown s gid e, sampled_zero rfl rfl⟩
  | some g =>
    rw [samplesTaken_select e]
    by_cases hg : g = s.cur
    · rw [if_neg fun h => h.1 hg]
      exact ⟨_, exec_select_same s gid (hg ▸ e), sampled_zero rfl rfl⟩
    · have hseed := (switchTo_seeded s g).sampled.send [noValueBeat]
      exact ⟨_, exec_select s gid g e hg, by simpa [hg, lastSeed_eq_none] using hseed⟩

/-- Settles O27, from the samples of a seeding, of the loop and of a switch. -/
theorem entropyIsSampledExactlyWhen : Obligations.EntropyIsSampledExactlyWhen := by
  intro i s hr
  cases i with
  | seedNone => exact ⟨_, exec_seedNone s, ((forgetSeed_sameGenerators s).seeded s.cur .none).sampled.send _⟩
  | seedInt imm =>
    exact ⟨_, exec_seedInt s imm, ((keepSeedInt_sameGenerators s imm).seeded s.cur (.int imm)).sampled.send _⟩
  | seedStr cs =>
    by_cases hl : cs.length ≤ Config.maxSeedLen
    · exact ⟨_, exec_seedStr s cs hl, ((keepSeedStr_sameGenerators s cs hl).seeded s.cur (.str cs)).sampled.send _⟩
    · exact ⟨_, exec_seedStr_long s cs hl, sampled_zero rfl rfl⟩
  | seedOther tag arg => exact ⟨_, exec_seedOther s tag arg, sampled_zero rfl rfl⟩
  | next => exact ⟨_, exec_next s, sampled_zero rfl rfl⟩
  | nextInt =>
    by_cases hi : givesIntegers s.cur = true
    · exact ⟨_, exec_nextInt s hi, sampled_zero rfl rfl⟩
    · exact ⟨_, exec_nextInt_unsupported s hi, sampled_zero rfl rfl⟩
  | random imm => exact emitMany_sampled .float (countOperand imm) hr
  | randomInt imm =>
    by_cases hi : givesIntegers s.cur = true
    · rw [exec_randomInt s imm hi, samplesTaken, if_pos hi]
      exact emitMany_sampled .int (countOperand imm) hr
    · rw [samplesTaken, if_neg hi]
      exact ⟨_, exec_randomInt_unsupported s imm hi, sampled_zero rfl rfl⟩
  | select gid => exact exec_select_sampled gid s
  | restore =>
    by_cases h : s.noseedOf s.cur = false ∧ s.snapvOf s.cur = true
    · exact ⟨_, exec_restore s h, sampled_zero rfl rfl⟩
    · exact ⟨_, exec_restore_noop s h, sampled_zero rfl rfl⟩
  | char ch => exact ⟨_, exec_char s ch, sampled_zero rfl rfl⟩

end Sys2Proof.Machine
end

section
/-! PROOFS. The family '70_reset_and_hazards.md': the reset sequence, between two steps and in the middle of a command
(R330, R331), and the order of SEED_INT and SELECT (R333). -/

namespace Sys2Proof.Machine

-- SEED_INT and SELECT in both orders (R333)

theorem exec_seedInt_givenSeed (imm : BitVec 32) (s : State) :
    ∃ t, exec (.seedInt imm) s = .next t ∧ GivenSeed (.int imm) s t :=
  ⟨_, exec_seedInt s imm, givenSeed_seedInt (exec_seedInt s imm)⟩

/-- Settles O32: in both orders the last command seeds core `g` with the integer. -/
theorem seedThenSelectIsSelectThenSeed : Obligations.SeedThenSelectIsSelectThenSeed := by
  intro s imm g ne
  obtain ⟨a, ha, hgiven, hacur, halast, _⟩ := exec_seedInt_givenSeed imm s
  obtain ⟨t, ht, htcur, htlast, htseeded⟩ := exec_select_other (hacur.symm ▸ ne : g ≠ a.cur)
  obtain ⟨b, hb, hbcur, _, _⟩ := exec_select_other ne
  obtain ⟨u, hu, _, hucur, hulast, huseeded⟩ := exec_seedInt_givenSeed imm b
  rw [halast] at htlast htseeded
  rw [hbcur] at hucur huseeded
  exact ⟨t, u, (runInstrs_cons ha _).trans (runInstrs_cons ht []), (runInstrs_cons hb _).trans (runInstrs_cons hu []),
    htcur, hucur, htseeded.coreState_eq hgiven huseeded, htseeded.noseed.trans huseeded.noseed.symm,
    htseeded.recalc.trans huseeded.recalc.symm, htlast.trans hulast.symm⟩

-- The reset sequence (R330)

/-- `M[DEFAULT]` is 2^32, so the time seed of DEFAULT is the sample itself (R104). -/
theorem timeSeed_dflt (e : Word) : timeSeed .dflt e = e := by
  apply BitVec.eq_of_toNat_eq
  rw [timeSeed_toNat]
  exact Nat.mod_eq_of_lt e.isLt

/-- The time seeding of DEFAULT in a block with no history leaves the table of R37. -/
theorem hardReset_eq (s : State) :
    s.hardReset = { State.resetWith s.entropyWord s.ent.tail (s.entCount + 1) with resp := s.resp } := by
  have hx : xs128InitInt (timeSeed .dflt s.entropyWord) = ⟨s.entropyWord, 362436069, 521288629, 88675123⟩ := by
    rw [timeSeed_dflt, xs128InitInt]
  rw [State.resetWith, ← hx]
  rfl

-- A reset in the middle of a command (R331)

/-- A step only adds beats to those already sent (R338). -/
theorem resp_prefix_of_step {s t : State} (h : step s = .next t) : s.resp <+: t.resp := by
  cases e : decode s.cmd with
  | instr i rest =>
    obtain ⟨t', bs, ht, hresp, _⟩ := exec_answersOnce i { s with cmd := rest }
    obtain rfl : t' = t := Host.Outcome.next.inj (ht.symm.trans ((step_of_instr e).symm.trans h))
    exact ⟨bs, hresp.symm⟩
  | illegal why hdr rest =>
    obtain rfl := Host.Outcome.next.inj ((step_of_illegal e).symm.trans h)
    exact List.prefix_append ..
  | waiting =>
    obtain rfl := Host.Outcome.next.inj ((step_of_waiting e).symm.trans h)
    exact List.prefix_rfl

/-- The beats sent when a command is cut short are the first of those the whole command leaves. -/
theorem cutShort_resp_eq_take {s t : State} (h : s.resp <+: t.resp) (k n : Nat) :
    (s.cutShort t k n).resp = t.resp.take (s.resp.length + k) := by
  obtain ⟨bs, hbs⟩ := h
  rw [cutShort_resp, State.beatsSince, ← hbs, List.drop_left, List.take_length_add_append]

/-- Settles O38: the reset sequence, run on the state the step was cut short in, reads off it the ports alone. -/
theorem resetSequenceIgnoresTheStateBefore : Obligations.ResetSequenceIgnoresTheStateBefore := by
  refine ⟨hardReset_eq, fun s t k n h => ?_⟩
  refine ⟨min n (t.entCount - s.entCount), Nat.min_le_right .., Nat.min_eq_left, ?_⟩
  rw [resetDuring_of_next k n h, hardReset_eq, cutShort_resp_eq_take (resp_prefix_of_step h), State.entropyWord,
    cutShort_ent, cutShort_entCount, List.tail_drop]

end Sys2Proof.Machine
end
